-- ==== Sys2Proof/Word.lean ====
section
/-! DEFINITION. The two value types of the core: bytes of the streams, and words of w bits. -/

namespace Sys2Proof

/-- One byte of the command stream, the response stream or a block (R69, R81). -/
abbrev Byte := BitVec 8

/-- A word of w bits. "A word is a natural number in [0, 2^w - 1]" (R100): the width w is the
configuration's (R5), so it is no part of the type, and the range is a condition on the value
(`Word.fits`), kept by every step (log 2: DESIGN CHOICE). -/
abbrev Word := Nat

/-- x is a word of w bits: 0 ≤ x ≤ 2^w - 1 (R10). -/
abbrev Word.fits (w : Nat) (x : Word) : Prop := x < 2 ^ w

end Sys2Proof
end

