-- ==== Sys2Proof/Config.lean ====
section
/-! DEFINITION. The configuration (w, r, b) a core is built for, and the named configurations. -/

namespace Sys2Proof

/-- The parameter triple of R5. It "does not change while the core runs, and no command reads or
writes it". Whether it is in range is `Config.legal` (Machine/Params.lean). -/
structure Config where
  /-- word size in bits -/
  w : Nat
  /-- number of rounds -/
  r : Nat
  /-- key length in bytes -/
  b : Nat
  deriving DecidableEq, Repr

/-- RC5-8/12/4 (R8). -/
def Config.rc5_8_12_4 : Config := ⟨8, 12, 4⟩

/-- RC5-16/16/8 (R8). -/
def Config.rc5_16_16_8 : Config := ⟨16, 16, 8⟩

/-- RC5-32/12/16 (R8). -/
def Config.rc5_32_12_16 : Config := ⟨32, 12, 16⟩

/-- RC5-32/20/16 (R8). -/
def Config.rc5_32_20_16 : Config := ⟨32, 20, 16⟩

end Sys2Proof
end

