-- ==== Sys2Proof/Machine/Params.lean ====
section
/-! DEFINITION. What follows from the configuration: its legality, the derived parameters of R6 and the
magic constants of R7. -/

namespace Sys2Proof

/-- "A triple outside these ranges is not a configuration of the core" (R5): w in 8, 16, 32, 64,
r and b in 0..255. -/
def Config.legal (cfg : Config) : Bool :=
  (cfg.w == 8 || cfg.w == 16 || cfg.w == 32 || cfg.w == 64) && cfg.r ≤ 255 && cfg.b ≤ 255

/-- u = w / 8, "the word size in bytes" (R6). -/
def Config.u (cfg : Config) : Nat := cfg.w / 8

/-- t = 2 * (r + 1), "the number of schedule words" (R6). -/
def Config.t (cfg : Config) : Nat := 2 * (cfg.r + 1)

/-- c = ceil(max(b, 1) / u), "the number of packed-key words" (R6; 90_conflicts.md C3). -/
def Config.c (cfg : Config) : Nat := (max cfg.b 1 + cfg.u - 1) / cfg.u

/-- N_mix = 3 * max(t, c), "the number of mixing iterations" (R6, R128). -/
def Config.nMix (cfg : Config) : Nat := 3 * max cfg.t cfg.c

/-- The block size, 2u bytes (R6). -/
def Config.blockBytes (cfg : Config) : Nat := 2 * cfg.u

/-- P_w of R7; a width outside the table has no such constant. The w = 8 and w = 64 rows are the
spec's, which marks them as general knowledge (log 10: PRESUMED). -/
def Config.magicP (cfg : Config) : Option Word :=
  if cfg.w = 8 then some 0xB7
  else if cfg.w = 16 then some 0xB7E1
  else if cfg.w = 32 then some 0xB7E15163
  else if cfg.w = 64 then some 0xB7E151628AED2A6B
  else none

/-- Q_w of R7; a width outside the table has no such constant (log 10: PRESUMED for w = 8, 64). -/
def Config.magicQ (cfg : Config) : Option Word :=
  if cfg.w = 8 then some 0x9F
  else if cfg.w = 16 then some 0x9E37
  else if cfg.w = 32 then some 0x9E3779B9
  else if cfg.w = 64 then some 0x9E3779B97F4A7C15
  else none

end Sys2Proof
end

