-- ==== Sys2Proof/Machine/State.lean ====
section
/-! DEFINITION. The state of the core and of the host beside it, the reasons a step stops, and the state
after reset. -/

namespace Sys2Proof.Machine

/-- The eight values of PHASE (R38). -/
inductive Phase where
  /-- waiting for, or in the middle of, a command header -/
  | idle
  /-- receiving the payload of a valid-length command -/
  | pay
  /-- receiving and discarding the payload of a wrong-length command -/
  | drain
  /-- KEYX Step 2, filling S -/
  | kxInit
  /-- KEYX Step 3, mixing -/
  | kxMix
  /-- ENC rounds -/
  | enRun
  /-- DEC rounds -/
  | deRun
  /-- sending the response frame -/
  | resp
  deriving DecidableEq, Repr

/-- The reasons of `raise Fault(reason)` (R234). -/
inductive Fault where
  /-- F_UNKEYED: raised by the header decode of an ENC or DEC with LEN = 2u while KEYED = 0 (R152).
  SAFE: "the hardware built to this spec may return some block; the model claims nothing" (R234). -/
  | unkeyed
  /-- F_NOVALUE: raised by any step that would read a register or array entry that holds no value
  (R14). "No rule of this spec does, so reaching it means a model error" (R234). SAFE: the model
  stops and claims nothing. -/
  | noValue
  deriving DecidableEq, Repr

/-- The reasons of `refuse(reason)` (R235), and the rejection of an instruction without a meaning. -/
inductive Refusal where
  /-- An instruction the model gives no meaning yet: answered by exec's own arm alone, and by no arm
  of this model. SAFE: nothing is claimed. -/
  | notModelled (mnemonic : String)
  /-- REF_OPCODE: raised by the header decode when OPC is not 0x01, 0x02 or 0x03 (R90, R202).
  SAFE: "it says nothing of what the hardware does" (R235). -/
  | refOpcode
  /-- REF_RSV: raised by the header decode when RSV is not 0x00 (R84, R90, R202). SAFE, as above. -/
  | refRsv
  /-- REF_CONFIG: raised by the first step of a machine whose (w, r, b) is outside the ranges of R5
  (R235; log 12). SAFE, as above. -/
  | refConfig
  deriving DecidableEq, Repr

/-- What the host does while the core takes one step (R211). -/
inductive HostMove where
  /-- the host offers the next byte of its command stream or not, and is ready to take a response
  byte or not -/
  | turn (offers takes : Bool)
  /-- the host asserts reset (R260) -/
  | reset
  deriving DecidableEq, Repr

/-- The host, the other agent of R199, as plain data (log 6: DESIGN CHOICE). -/
structure HostAgent where
  /-- command-stream bytes the host has to send and the core has not taken, oldest first -/
  cmd : List Byte
  /-- response-stream bytes the host has taken, oldest first -/
  got : List Byte
  /-- what the host does in the coming steps, one entry a step; when it has run out the host offers
  every byte it has -/
  moves : List HostMove
  /-- whether the host takes response bytes once `moves` has run out -/
  takes : Bool
  deriving DecidableEq, Repr

/-- The state tuple of R30, the model marks of R45, the configuration (a parameter of the core, held
here as data that no step writes: log 1) and the host. `none` is "holds no value" (R14; log 3). The
names are the spec's. -/
structure State where
  /-- the configuration (R5) -/
  cfg : Config
  /-- schedule array, t words (R34) -/
  S : List (Option Word)
  /-- S holds the schedule of the last successful KEYX (R37) -/
  KEYED : Bool
  /-- sequencer state (R38) -/
  PHASE : Phase
  /-- header bytes already received (R39) -/
  HDRCNT : Nat
  /-- command word, its four bytes from CW[7:0] up (R39; log 4) -/
  CW : List (Option Byte)
  /-- payload bytes already received (R40) -/
  RXCNT : Option Nat
  /-- status code (R41, R42) -/
  ST : Option Byte
  /-- response data, 2u bytes (R41; log 4) -/
  DATA : List (Option Byte)
  /-- how many DATA bytes the response carries (R41) -/
  RLEN : Option Nat
  /-- response bytes already taken (R41) -/
  TXCNT : Option Nat
  /-- packed-key array, c words (R35) -/
  L : List (Option Word)
  /-- working register A (R32) -/
  A : Option Word
  /-- working register B (R33) -/
  B : Option Word
  /-- schedule index (R36) -/
  i : Option Nat
  /-- packed-key index (R36) -/
  j : Option Nat
  /-- mix iterations already done (R36) -/
  k : Option Nat
  /-- round index (R36) -/
  rnd : Option Nat
  /-- model mark: the reason of a fault, if one was raised (R45; log 5) -/
  FAULT : Option Fault
  /-- model mark: the reason of a refusal, if one was made (R45; log 5) -/
  REFUSED : Option Refusal
  /-- the host (R199) -/
  host : HostAgent
  deriving DecidableEq, Repr

/-- The host before it has sent or taken anything (log 13: DESIGN CHOICE). -/
def HostAgent.silent : HostAgent := { cmd := [], got := [], moves := [], takes := true }

/-- The state of R260 for a core built for cfg: PHASE idle, HDRCNT 0, KEYED 0, every other register
and array entry with no value, and no mark set. -/
def State.resetFor (cfg : Config) : State where
  cfg := cfg
  S := List.replicate cfg.t none
  KEYED := false
  PHASE := .idle
  HDRCNT := 0
  CW := List.replicate 4 none
  RXCNT := none
  ST := none
  DATA := List.replicate cfg.blockBytes none
  RLEN := none
  TXCNT := none
  L := List.replicate cfg.c none
  A := none
  B := none
  i := none
  j := none
  k := none
  rnd := none
  FAULT := none
  REFUSED := none
  host := HostAgent.silent

/-- The machine right after reset, built for RC5-32/12/16 (log 1: DESIGN CHOICE; the statements are
about every configuration). -/
def State.reset : State := State.resetFor Config.rc5_32_12_16

end Sys2Proof.Machine
end

