-- ==== Sys2Proof/Machine/Flags.lean ====
section
/-! DEFINITION. The core's flags: KEYED is the only one, and no datapath operation computes a condition
code, a carry or an overflow (R44, R111). -/

namespace Sys2Proof.Machine

/-- KEYED <- 0, when a valid-length KEYX starts writing S (R131). -/
def clearKeyed (s : State) : State := { s with KEYED := false }

/-- KEYED <- 1, when a KEYX finishes its mix (R130). -/
def setKeyed (s : State) : State := { s with KEYED := true }

end Sys2Proof.Machine
end

