-- ==== Sys2Proof/Syntax.lean ====
section
/-! DEFINITION. The three commands as syntax, a command with its payload, and the assembler's lines. -/

namespace Sys2Proof

/-- A command header that is not reserved (R82, R83). `len` is LEN = CW[31:16], "taken as an
unsigned natural" (R85): the exact number of payload bytes that follow the header. -/
inductive Instr where
  /-- KEYX, OPC 0x01: expand a key into the schedule (R120). -/
  | keyx (len : Nat)
  /-- ENC, OPC 0x02: encrypt one block (R150). -/
  | enc (len : Nat)
  /-- DEC, OPC 0x03: decrypt one block (R156). -/
  | dec (len : Nat)
  deriving DecidableEq, Repr

/-- LEN of a command. -/
def Instr.len : Instr → Nat
  | .keyx n => n
  | .enc n => n
  | .dec n => n

/-- A whole command frame: the header and its payload bytes P[0], P[1], ... (R81). The payload
is the command's only operand (R87). -/
structure Frame where
  instr : Instr
  payload : List Byte
  deriving DecidableEq, Repr

/-- One source line of the assembler (R91, R92). -/
inductive SourceLine where
  /-- `KEYX k0 k1 ...` -/
  | keyx (bytes : List Byte)
  /-- `ENC p0 p1 ...` -/
  | enc (bytes : List Byte)
  /-- `DEC p0 p1 ...` -/
  | dec (bytes : List Byte)
  /-- `.cw 0xHHHHHHHH`: a raw command word, no payload -/
  | cw (word : BitVec 32)
  /-- `.byte xx ...`: raw bytes -/
  | byte (bytes : List Byte)
  deriving DecidableEq, Repr

end Sys2Proof
end

