-- ==== Sys2Proof/WellFormed.lean ====
section
/-! DEFINITION. Which terms of the syntax a command stream can carry. -/

namespace Sys2Proof

/-- LEN is a 16-bit field: "Every value 0..65535 is a legal encoding for every command", and a
longer payload "cannot be encoded" (R85). -/
abbrev Instr.wellFormed (i : Instr) : Prop := i.len < 65536

/-- A frame is well formed when its header is and its payload is "exactly LEN bytes" (R68, R85). -/
abbrev Frame.wellFormed (f : Frame) : Prop :=
  f.instr.wellFormed ∧ f.payload.length = f.instr.len

end Sys2Proof
end

