-- ==== Sys2Proof/Decode.lean ====
section
/-! DEFINITION. The decoder, total on any bytes and rejecting by name, and after it the encoder and
the assembler, both written from the encoding rules R81 to R92. -/

namespace Sys2Proof

/-- Why a command word is reserved (R90). -/
inductive Reserved where
  /-- OPC is not 0x01, 0x02 or 0x03. -/
  | opcode
  /-- RSV is not 0x00. -/
  | rsv
  deriving DecidableEq, Repr

/-- Why a byte sequence does not decode. -/
inductive DecodeError where
  /-- fewer bytes than the header, or than header and payload, need -/
  | incomplete
  /-- a reserved header -/
  | reserved (why : Reserved)
  deriving DecidableEq, Repr

/-! ### The command word CMD32 -/

/-- OPC = CW[7:0] (R82). -/
def opcOf (cw : BitVec 32) : Byte := cw.extractLsb' 0 8

/-- RSV = CW[15:8] (R82). -/
def rsvOf (cw : BitVec 32) : Byte := cw.extractLsb' 8 8

/-- LEN = CW[31:16] as a natural (R82, R85). -/
def lenOf (cw : BitVec 32) : Nat := (cw.extractLsb' 16 16).toNat

/-- The command word of four header bytes, "least significant byte first" (R65, R81). -/
def wordOfBytes (b0 b1 b2 b3 : Byte) : BitVec 32 := b3 ++ b2 ++ b1 ++ b0

/-- Byte n of a command word: CW[8n+7:8n] (R39). -/
def byteOfWord (cw : BitVec 32) (n : Nat) : Byte := cw.extractLsb' (8 * n) 8

/-- The command a header carries, or why it is reserved; OPC is checked before RSV (R83, R84, R90
and the order of R202). -/
def decodeWord (cw : BitVec 32) : Except Reserved Instr :=
  if opcOf cw ≠ 0x01#8 ∧ opcOf cw ≠ 0x02#8 ∧ opcOf cw ≠ 0x03#8 then .error .opcode
  else if rsvOf cw ≠ 0x00#8 then .error .rsv
  else if opcOf cw = 0x01#8 then .ok (.keyx (lenOf cw))
  else if opcOf cw = 0x02#8 then .ok (.enc (lenOf cw))
  else .ok (.dec (lenOf cw))

/-- The command at the head of a byte stream, and the bytes after its header (R81). -/
def decode : List Byte → Except DecodeError (Instr × List Byte)
  | b0 :: b1 :: b2 :: b3 :: rest =>
    match decodeWord (wordOfBytes b0 b1 b2 b3) with
    | .ok i => .ok (i, rest)
    | .error why => .error (.reserved why)
  | _ => .error .incomplete

/-- The whole frame at the head of a byte stream, and the bytes after it: "4 + LEN bytes" (R86). -/
def decodeFrame (bytes : List Byte) : Except DecodeError (Frame × List Byte) :=
  match decode bytes with
  | .error e => .error e
  | .ok (i, rest) =>
    if rest.length < i.len then .error .incomplete
    else .ok (⟨i, rest.take i.len⟩, rest.drop i.len)

/-! ### The encoder -/

/-- OPC of a command (R83). -/
def opcFor : Instr → Byte
  | .keyx _ => 0x01#8
  | .enc _ => 0x02#8
  | .dec _ => 0x03#8

/-- The command word LEN, RSV = 0x00, OPC, bit 31 on the left (R82). -/
def encodeWord (i : Instr) : BitVec 32 := BitVec.ofNat 16 i.len ++ 0x00#8 ++ opcFor i

/-- The four bytes of a command word, least significant first (R65, R92). -/
def bytesOfWord (cw : BitVec 32) : List Byte :=
  [byteOfWord cw 0, byteOfWord cw 1, byteOfWord cw 2, byteOfWord cw 3]

/-- The header bytes of a command (R81). -/
def encode (i : Instr) : List Byte := bytesOfWord (encodeWord i)

/-- The bytes of a whole frame (R81). -/
def encodeFrame (f : Frame) : List Byte := encode f.instr ++ f.payload

/-! ### The assembler -/

/-- The frame of a mnemonic with payload bytes: LEN is "the number of bytes written" (R91); more
than 65535 bytes "cannot be encoded" (R85). -/
def assembleCommand (i : Nat → Instr) (bytes : List Byte) : Option (List Byte) :=
  if bytes.length < 65536 then some (encodeFrame ⟨i bytes.length, bytes⟩) else none

/-- The stream bytes of one source line (R91, R92). -/
def assembleLine : SourceLine → Option (List Byte)
  | .keyx bytes => assembleCommand .keyx bytes
  | .enc bytes => assembleCommand .enc bytes
  | .dec bytes => assembleCommand .dec bytes
  | .cw word => some (bytesOfWord word)
  | .byte bytes => some bytes

/-- `xx·n`: n copies of byte xx (R91). -/
def repeated (x : Byte) (n : Nat) : List Byte := List.replicate n x

/-! ### Words numbered as spec/opcode_table.json numbers them -/

/-- `n` bytes of the number w from byte k on, least significant first. -/
def bytesFrom (w : Nat) : Nat → Nat → List Byte
  | _, 0 => []
  | k, n + 1 => BitVec.ofNat 8 (w / 2 ^ (8 * k)) :: bytesFrom w (k + 1) n

/-- The stream bytes of a table word of nbits bits: its header, then as many payload bytes as
its LEN field says; every bit above nbits is 0. -/
def tableFrame (nbits w : Nat) : List Byte :=
  bytesFrom (w % 2 ^ nbits) 0 4 ++
    bytesFrom (w % 2 ^ nbits) 4 (lenOf (BitVec.ofNat 32 (w % 2 ^ nbits)))

/-- What the decoder reads from a table word of nbits bits. -/
def decodeTableWord (nbits w : Nat) : Option Instr :=
  match decode (tableFrame nbits w) with
  | .ok (i, _) => some i
  | .error _ => none

end Sys2Proof
end

