-- ==== Sys2Proof/Machine/Datapath.lean ====
section
/-! DEFINITION. The word datapath (40_word_datapath.md): every operation on w-bit words, none of which
writes a flag or raises anything (R111). -/

namespace Sys2Proof.Machine

/-- ADD_w: `x +w y = (x + y) mod 2^w` (R101). -/
def addW (w : Nat) (x y : Word) : Word := (x + y) % 2 ^ w

/-- SUB_w: `x -w y = (x + 2^w - y) mod 2^w` (R102). -/
def subW (w : Nat) (x y : Word) : Word := (x + 2 ^ w - y) % 2 ^ w

/-- XOR: "bitwise exclusive or" (R103). -/
def xorW (x y : Word) : Word := x ^^^ y

/-- SHL_w: `x << s = (x * 2^s) mod 2^w`, for s ≤ w - 1 (R104). -/
def shlW (w : Nat) (x : Word) (s : Nat) : Word := x * 2 ^ s % 2 ^ w

/-- SHR_w: `x >> s = x / 2^s`, for s ≤ w - 1 (R105). -/
def shrW (x : Word) (s : Nat) : Word := x / 2 ^ s

/-- "Rotation amounts are always reduced modulo w before use" (R106). -/
def rotAmount (w : Nat) (y : Word) : Nat := y % w

/-- ROL_w, with the amount of 0 bypassed so that no shift is by w (R107, R109). -/
def rolW (w : Nat) (x y : Word) : Word :=
  if rotAmount w y = 0 then x
  else shlW w x (rotAmount w y) ||| shrW x (w - rotAmount w y)

/-- ROR_w, with the amount of 0 bypassed (R108, R109). -/
def rorW (w : Nat) (x y : Word) : Word :=
  if rotAmount w y = 0 then x
  else shrW x (rotAmount w y) ||| shlW w x (w - rotAmount w y)

end Sys2Proof.Machine
end

