-- ==== Sys2Proof/Machine/Operands.lean ====
section
/-! DEFINITION. The operand forms: reading registers and array entries that may hold no value, byte lanes
of a word, and the little-endian marshaller (43_marshaller.md). -/

namespace Sys2Proof.Machine

/-- Entry n of an array: no value where the entry holds none (R14) or does not exist (log 18). -/
def entry {α : Type} (xs : List (Option α)) (n : Nat) : Option α := xs[n]?.join

/-- The command word, once all four of its bytes hold a value (R39). -/
def commandWord (s : State) : Option (BitVec 32) := do
  let b0 ← entry s.CW 0
  let b1 ← entry s.CW 1
  let b2 ← entry s.CW 2
  let b3 ← entry s.CW 3
  pure (wordOfBytes b0 b1 b2 b3)

/-- Byte q of a word: x[8q+7:8q] (R10, R67). -/
def byteLane (x : Word) (q : Nat) : Byte := BitVec.ofNat 8 (x / 2 ^ (8 * q))

/-- The word x with bits [8q+7:8q] replaced by v, the other bits kept (R67, R124, R184). -/
def setByteLane (x : Word) (q : Nat) (v : Byte) : Word :=
  x / 2 ^ (8 * (q + 1)) * 2 ^ (8 * (q + 1)) + v.toNat * 2 ^ (8 * q) + x % 2 ^ (8 * q)

/-- LE_DECODE_u of the bytes d[0], d[1], ...: the sum of d[q] * 2^(8q) (R180). -/
def leDecode : List Byte → Word
  | [] => 0
  | d :: ds => d.toNat + 2 ^ 8 * leDecode ds

/-- LE_ENCODE_u: byte q of the result is x[8q+7:8q] (R181). -/
def leEncode (u : Nat) (x : Word) : List Byte := (List.range u).map (byteLane x)

/-- BLOCK_TO_WORDS: "The first u bytes encode word A in little-endian order; the next u bytes encode
word B" (R182). -/
def blockToWords (u : Nat) (p : List Byte) : Word × Word :=
  (leDecode (p.take u), leDecode ((p.drop u).take u))

/-- WORDS_TO_BLOCK: A's bytes first (R183). -/
def wordsToBlock (u : Nat) (a b : Word) : List Byte := leEncode u a ++ leEncode u b

/-- Key byte n written into "bits [8(n mod u)+7 : 8(n mod u)] of L[n / u]" (R124, R186). -/
def placeKeyByte (u : Nat) (L : List (Option Word)) (n : Nat) (v : Byte) :
    Option (List (Option Word)) := do
  let x ← entry L (n / u)
  pure (L.set (n / u) (some (setByteLane x (n % u) v)))

/-- Block byte n written into A when n < u, and into B otherwise (R184). -/
def placeBlockByte (u : Nat) (ab : Word × Word) (n : Nat) (v : Byte) : Word × Word :=
  if n < u then (setByteLane ab.1 n v, ab.2) else (ab.1, setByteLane ab.2 (n - u) v)

end Sys2Proof.Machine
end

