-- ==== Sys2Proof/Machine/Ops.lean ====
section
/-! DEFINITION. The primitives of R13 over the state: raising, refusing, receiving and sending bytes,
responding, the error response, draining, and the reset event. -/

namespace Sys2Proof.Machine

/-- The outcomes of one step of this machine. -/
abbrev Outcome := Host.Outcome State Fault Refusal

/-- `raise Fault(reason)`: sets the sticky mark; the marked state has no further step (R45, R234;
log 5). No response is produced. -/
def raiseFault (r : Fault) (s : State) : Outcome := .next { s with FAULT := some r }

/-- `refuse(reason)`: sets the sticky mark; the marked state has no further step (R45, R235;
log 5). -/
def refuse (r : Refusal) (s : State) : Outcome := .next { s with REFUSED := some r }

/-- The step that computes o, where a read of an entry that holds no value faults (R14): F_NOVALUE,
with nothing else of the step done (log 3). -/
def orNoValue (s : State) (o : Option State) : Outcome :=
  match o with
  | some s' => .next s'
  | none => raiseFault .noValue s

/-- f on the next state of an outcome; a stop stays a stop. -/
def onNext (f : State → State) : Outcome → Outcome
  | .next s => .next (f s)
  | .fault r => .fault r
  | .refused r => .refused r

/-! ### The two streams -/

/-- Whether the host offers a command byte during this step (R211; log 6). -/
def hostOffers (s : State) : Bool :=
  match s.host.moves with
  | .turn offers _ :: _ => offers
  | .reset :: _ => false
  | [] => true

/-- Whether the host is ready to take a response byte during this step (R211; log 6). -/
def hostTakes (s : State) : Bool :=
  match s.host.moves with
  | .turn _ takes :: _ => takes
  | .reset :: _ => false
  | [] => s.host.takes

/-- The host's next listed move is used up; a core step passes (log 6). -/
def popMove (s : State) : State := { s with host := { s.host with moves := s.host.moves.tail } }

/-- The next command byte is taken from the stream. -/
def takeCommandByte (s : State) : State := { s with host := { s.host with cmd := s.host.cmd.tail } }

/-- `v = RecvByte()`: the core takes the next command byte and goes on with f; with no byte offered it
waits, and its registers stay as they are (R201, R203, R204, R236; log 7). -/
def recvByte (f : Byte → State → Outcome) (s : State) : Outcome :=
  match s.host.cmd with
  | [] => .next s
  | v :: _ => if hostOffers s then f v (takeCommandByte s) else .next s

/-- `SendByte(v)`: the host takes the response byte v. -/
def sendByte (v : Byte) (s : State) : State :=
  { s with host := { s.host with got := s.host.got ++ [v] } }

/-! ### Responses -/

/-- Status code OK (R42). -/
def stOK : Byte := 0x00#8

/-- Status code InvalidKeyLength (R42). -/
def stInvalidKeyLength : Byte := 0x01#8

/-- Status code InvalidBlockLength (R42). -/
def stInvalidBlockLength : Byte := 0x02#8

/-- "the working state L, A, B, i, j, k and rnd comes to hold no value" (R205, R47). -/
def discardWorking (s : State) : State :=
  { s with
    L := List.replicate s.cfg.c none
    A := none
    B := none
    i := none
    j := none
    k := none
    rnd := none }

/-- `respond(st, data)`: load the response registers, go to RESP, and discard the working state
(R41, R205). DATA bytes beyond the response keep their content. -/
def respond (st : Byte) (data : List Byte) (s : State) : State :=
  discardWorking
    { s with
      ST := some st
      DATA := data.map some ++ s.DATA.drop data.length
      RLEN := some data.length
      TXCNT := some 0
      PHASE := .resp }

/-- The error response of a wrong-length command, the core's only analogue of taking a trap (R239):
ST holds the code; with LEN = 0 the response follows at once, else the payload is drained first
(R121, R151, R202, R230). -/
def lengthError (st : Byte) (len : Nat) (s : State) : State :=
  if len = 0 then respond st [] { s with ST := some st }
  else { s with ST := some st, PHASE := .drain }

/-- PHASE = DRAIN: the byte is discarded and counted; at the last one, the response with the code that
the decode put in ST (R204). -/
def drainByte (_v : Byte) (s : State) : Outcome :=
  orNoValue s do
    let n ← s.RXCNT
    let cw ← commandWord s
    if n + 1 = lenOf cw then
      let st ← s.ST
      pure (respond st [] { s with RXCNT := some (n + 1) })
    else pure { s with RXCNT := some (n + 1) }

/-- Byte number TXCNT of the response frame: ST, then DATA[TXCNT - 1] (R88, R206). -/
def responseByte (s : State) (n : Nat) : Option Byte :=
  if n = 0 then s.ST else entry s.DATA (n - 1)

/-- PHASE = RESP: the core offers one response byte; taking it advances TXCNT, and after the last one
the core is IDLE again (R206, R240). A host that does not take it leaves the core waiting. -/
def respStep (s : State) : Outcome :=
  if hostTakes s then
    orNoValue s do
      let n ← s.TXCNT
      let v ← responseByte s n
      let len ← s.RLEN
      pure (sendByte v
        { s with TXCNT := some (n + 1), PHASE := if n + 1 = len + 1 then .idle else .resp })
  else .next s

/-! ### Reset -/

/-- The reset event: every register at its reset value, the configuration and the marks kept, the
command in progress abandoned with no response; the host's own side stays the host's (R260, R261;
log 9). -/
def resetEvent (s : State) : State :=
  { State.resetFor s.cfg with FAULT := s.FAULT, REFUSED := s.REFUSED, host := s.host }

end Sys2Proof.Machine
end

