-- ==== Sys2Proof/Machine/BlockTransform.lean ====
section
/-! DEFINITION. The round datapath (42_block_transform.md): whitening and rounds of ENC and DEC, as the
source's loops and as the sequencer steps built on the same rounds. -/

namespace Sys2Proof.Machine

/-! ### Whitening and rounds -/

/-- `A <- A +w S[0]; B <- B +w S[1]` (R153). -/
def preWhiten (cfg : Config) (S : List (Option Word)) (ab : Word × Word) : Option (Word × Word) := do
  let s0 ← entry S 0
  let s1 ← entry S 1
  pure (addW cfg.w ab.1 s0, addW cfg.w ab.2 s1)

/-- ENC round n: "The two half-rounds are sequential" (R154). -/
def encRound (cfg : Config) (S : List (Option Word)) (n : Nat) (ab : Word × Word) :
    Option (Word × Word) := do
  let x ← entry S (2 * n)
  let y ← entry S (2 * n + 1)
  let a := addW cfg.w (rolW cfg.w (xorW ab.1 ab.2) ab.2) x
  let b := addW cfg.w (rolW cfg.w (xorW ab.2 a) a) y
  pure (a, b)

/-- DEC round n: the subtraction, then the rotation, then the XOR; B first (R158). -/
def decRound (cfg : Config) (S : List (Option Word)) (n : Nat) (ab : Word × Word) :
    Option (Word × Word) := do
  let x ← entry S (2 * n)
  let y ← entry S (2 * n + 1)
  let b := xorW (rorW cfg.w (subW cfg.w ab.2 y) ab.1) ab.1
  let a := xorW (rorW cfg.w (subW cfg.w ab.1 x) b) b
  pure (a, b)

/-- `B <- B -w S[1]; A <- A -w S[0]` (R159). -/
def postWhiten (cfg : Config) (S : List (Option Word)) (ab : Word × Word) : Option (Word × Word) := do
  let s0 ← entry S 0
  let s1 ← entry S 1
  pure (subW cfg.w ab.1 s0, subW cfg.w ab.2 s1)

/-! ### The source's loops -/

/-- ENC rounds 1, ..., n, in that order (R150). -/
def encRounds (cfg : Config) (S : List (Option Word)) : Nat → Word × Word → Option (Word × Word)
  | 0, ab => some ab
  | n + 1, ab => (encRounds cfg S n ab).bind (encRound cfg S (n + 1))

/-- DEC rounds n, ..., 1, in that order (R156; 90_conflicts.md C8). -/
def decRounds (cfg : Config) (S : List (Option Word)) : Nat → Word × Word → Option (Word × Word)
  | 0, ab => some ab
  | n + 1, ab => (decRound cfg S (n + 1) ab).bind (decRounds cfg S n)

/-- Encrypt(S, P): the output block of ENC (R150). -/
def encrypt (cfg : Config) (S : List (Option Word)) (P : List Byte) : Option (List Byte) := do
  let ab ← preWhiten cfg S (blockToWords cfg.u P)
  let ab ← encRounds cfg S cfg.r ab
  pure (wordsToBlock cfg.u ab.1 ab.2)

/-- Decrypt(S, C): the output block of DEC (R156). -/
def decrypt (cfg : Config) (S : List (Option Word)) (C : List Byte) : Option (List Byte) := do
  let ab ← decRounds cfg S cfg.r (blockToWords cfg.u C)
  let ab ← postWhiten cfg S ab
  pure (wordsToBlock cfg.u ab.1 ab.2)

/-! ### The sequencer steps -/

/-- Header decode of an ENC or DEC: the length check, then the keyed check, else A and B cleared for
the block loader (R151, R152, R184, R202, R237). -/
def blockHeader (len : Nat) (s : State) : Outcome :=
  let s := { s with RXCNT := some 0 }
  if len ≠ s.cfg.blockBytes then .next (lengthError stInvalidBlockLength len s)
  else if s.KEYED = false then raiseFault .unkeyed s
  else .next { s with A := some 0, B := some 0, PHASE := .pay }

/-- A block byte arrives in PHASE = PAY: it goes to its lane of A or B (R184, R203); after the last
one, `entered` is the same step's dispatch. -/
def blockByte (entered : State → Word × Word → Option State) (len : Nat) (v : Byte) (s : State) :
    Outcome :=
  orNoValue s do
    let n ← s.RXCNT
    let a ← s.A
    let b ← s.B
    let ab := placeBlockByte s.cfg.u (a, b) n v
    let s := { s with A := some ab.1, B := some ab.2, RXCNT := some (n + 1) }
    if n + 1 = len then entered s ab else pure s

/-- The finish of ENC and DEC: `respond(0x00, WORDS_TO_BLOCK(A, B))` (R155, R160). -/
def finishBlock (s : State) (ab : Word × Word) : State :=
  respond stOK (wordsToBlock s.cfg.u ab.1 ab.2) s

/-- The step of the last ENC payload byte: pre-whitening, rnd <- 1, and with r = 0 the finish
(R153, R155, R163). -/
def encEntry (s : State) (ab : Word × Word) : Option State := do
  let ab ← preWhiten s.cfg s.S ab
  let s := { s with A := some ab.1, B := some ab.2, rnd := some 1 }
  pure (if s.cfg.r = 0 then finishBlock s ab else { s with PHASE := .enRun })

/-- PHASE = EN_RUN: round rnd, and after round r the finish (R154, R155). -/
def enRunStep (s : State) : Outcome :=
  orNoValue s do
    let a ← s.A
    let b ← s.B
    let n ← s.rnd
    let ab ← encRound s.cfg s.S n (a, b)
    let s := { s with A := some ab.1, B := some ab.2, rnd := some (n + 1) }
    pure (if n + 1 = s.cfg.r + 1 then finishBlock s ab else s)

/-- The post-whitening and the finish of DEC, in one step (R159, R160). -/
def decFinish (s : State) (ab : Word × Word) : Option State := do
  let ab ← postWhiten s.cfg s.S ab
  pure (finishBlock { s with A := some ab.1, B := some ab.2 } ab)

/-- The step of the last DEC payload byte: rnd <- r, and with r = 0 the post-whitening (R157,
R163). -/
def decEntry (s : State) (ab : Word × Word) : Option State :=
  let s := { s with rnd := some s.cfg.r }
  if s.cfg.r = 0 then decFinish s ab else some { s with PHASE := .deRun }

/-- PHASE = DE_RUN: round rnd, in descending order, and after round 1 the post-whitening in the same
step (R158). -/
def deRunStep (s : State) : Outcome :=
  orNoValue s do
    let a ← s.A
    let b ← s.B
    let n ← s.rnd
    let ab ← decRound s.cfg s.S n (a, b)
    let s := { s with A := some ab.1, B := some ab.2, rnd := some (n - 1) }
    if n - 1 = 0 then decFinish s ab else pure s

end Sys2Proof.Machine
end

