-- ==== Sys2Proof/Machine/KeySchedule.lean ====
section
/-! DEFINITION. The key-schedule expander (41_key_schedule.md): the three steps of key expansion as the
source's loops, and the sequencer steps of KEYX built on the same iterations. -/

namespace Sys2Proof.Machine

/-! ### The iterations -/

/-- One iteration of Pack: `L[i/u] <- ROL_w(L[i/u], 8) +w zext_w(K[i])` (R122). -/
def packIteration (cfg : Config) (K : List Byte) (n : Nat) (L : List (Option Word)) :
    Option (List (Option Word)) := do
  let x ← entry L (n / cfg.u)
  let v ← K[n]?
  pure (L.set (n / cfg.u) (some (addW cfg.w (rolW cfg.w x 8) v.toNat)))

/-- One iteration of Init: `S[i] <- S[i-1] +w Q_w` (R125). -/
def initIteration (cfg : Config) (i : Nat) (S : List (Option Word)) :
    Option (List (Option Word)) := do
  let x ← entry S (i - 1)
  let q ← cfg.magicQ
  pure (S.set i (some (addW cfg.w x q)))

/-- The variables of the mix. -/
structure MixVars where
  S : List (Option Word)
  L : List (Option Word)
  A : Word
  B : Word
  i : Nat
  j : Nat
  deriving DecidableEq, Repr

/-- One iteration of the mix; "The statements are sequential" (R127, R129). -/
def mixIteration (cfg : Config) (m : MixVars) : Option MixVars := do
  let x ← entry m.S m.i
  let a := rolW cfg.w (addW cfg.w (addW cfg.w x m.A) m.B) 3
  let y ← entry m.L m.j
  let b := rolW cfg.w (addW cfg.w (addW cfg.w y a) m.B) (addW cfg.w a m.B)
  pure
    { S := m.S.set m.i (some a)
      L := m.L.set m.j (some b)
      A := a
      B := b
      i := (m.i + 1) % cfg.t
      j := (m.j + 1) % cfg.c }

/-! ### The source's loops -/

/-- Pack's loop "i = b-1 down to 0", its first n indices still to do (R122). -/
def packLoop (cfg : Config) (K : List Byte) : Nat → List (Option Word) → Option (List (Option Word))
  | 0, L => some L
  | n + 1, L => (packIteration cfg K n L).bind (packLoop cfg K n)

/-- Step 1: the packed key (R122). -/
def pack (cfg : Config) (K : List Byte) : Option (List (Option Word)) :=
  packLoop cfg K cfg.b (List.replicate cfg.c (some 0))

/-- Init's loop "for i in 1..": S after the indices 1, ..., n (R125). -/
def initLoop (cfg : Config) : Nat → List (Option Word) → Option (List (Option Word))
  | 0, S => some S
  | n + 1, S => (initLoop cfg n S).bind (initIteration cfg (n + 1))

/-- Step 2: S[0] = P_w, then S[1] .. S[t-1] (R125; 90_conflicts.md C6). -/
def init (cfg : Config) : Option (List (Option Word)) :=
  initLoop cfg (cfg.t - 1) ((List.replicate cfg.t none).set 0 cfg.magicP)

/-- n iterations of the mix (R128). -/
def mixLoop (cfg : Config) : Nat → MixVars → Option MixVars
  | 0, m => some m
  | n + 1, m => (mixLoop cfg n m).bind (mixIteration cfg)

/-- "Set A = 0, B = 0, i = 0, j = 0" (R126). -/
def mixStart (S L : List (Option Word)) : MixVars := { S := S, L := L, A := 0, B := 0, i := 0, j := 0 }

/-- Expand(K): the schedule a key of b bytes gives, after exactly N_mix iterations; "L is discarded"
(R120, R128, R130). -/
def expand (cfg : Config) (K : List Byte) : Option (List (Option Word)) := do
  let L ← pack cfg K
  let S ← init cfg
  let m ← mixLoop cfg cfg.nMix (mixStart S L)
  pure m.S

/-! ### The sequencer steps -/

/-- Init starts: `KEYED <- 0; S[0] <- P_w; i <- 1; PHASE <- KX_INIT` (R125, R131). -/
def startInit (s : State) : State :=
  { clearKeyed s with S := s.S.set 0 s.cfg.magicP, i := some 1, PHASE := .kxInit }

/-- Header decode of a KEYX: the length check (R121), else L cleared (R124), and with b = 0 Init
starts in the same step (R202). -/
def keyxHeader (len : Nat) (s : State) : Outcome :=
  let s := { s with RXCNT := some 0 }
  if len ≠ s.cfg.b then .next (lengthError stInvalidKeyLength len s)
  else
    let s := { s with L := List.replicate s.cfg.c (some 0) }
    if s.cfg.b = 0 then .next (startInit s) else .next { s with PHASE := .pay }

/-- A key byte arrives in PHASE = PAY; after the last one Init starts in the same step (R124,
R203). -/
def keyxByte (len : Nat) (v : Byte) (s : State) : Outcome :=
  orNoValue s do
    let n ← s.RXCNT
    let L ← placeKeyByte s.cfg.u s.L n v
    let s := { s with L := L, RXCNT := some (n + 1) }
    pure (if n + 1 = len then startInit s else s)

/-- PHASE = KX_INIT: one Init iteration; when i reaches t the mix is set up in the same step (R125,
R126). -/
def kxInitStep (s : State) : Outcome :=
  orNoValue s do
    let i ← s.i
    let S ← initIteration s.cfg i s.S
    let s := { s with S := S, i := some (i + 1) }
    pure (if i + 1 = s.cfg.t then
        { s with A := some 0, B := some 0, i := some 0, j := some 0, k := some 0, PHASE := .kxMix }
      else s)

/-- PHASE = KX_MIX: one mix iteration; the step that makes k = N_mix commits and responds (R127,
R128, R130). -/
def kxMixStep (s : State) : Outcome :=
  orNoValue s do
    let a ← s.A
    let b ← s.B
    let i ← s.i
    let j ← s.j
    let k ← s.k
    let m ← mixIteration s.cfg { S := s.S, L := s.L, A := a, B := b, i := i, j := j }
    let s :=
      { s with
        S := m.S, L := m.L, A := some m.A, B := some m.B, i := some m.i, j := some m.j
        k := some (k + 1) }
    pure (if k + 1 = s.cfg.nMix then respond stOK [] (setKeyed s) else s)

end Sys2Proof.Machine
end

