-- ==== Sys2Proof/Machine/Commands.lean ====
section
/-! DEFINITION. The meaning of each command at the sequencer's level: what one core step of it does in
whichever phase the command is (44_command_interface.md R202 to R208; log 8). -/

namespace Sys2Proof.Machine

/-- One core step by PHASE (R38). What the header and the payload mean depends on the command; the
other phases name their own step: DRAIN R204, KX_INIT R125, KX_MIX R127, EN_RUN R154, DE_RUN R158,
RESP R206. -/
def byPhase (header payload : State → Outcome) (s : State) : Outcome :=
  match s.PHASE with
  | .idle => header s
  | .pay => payload s
  | .drain => recvByte drainByte s
  | .kxInit => kxInitStep s
  | .kxMix => kxMixStep s
  | .enRun => enRunStep s
  | .deRun => deRunStep s
  | .resp => respStep s

/-- KEYX (R120): header decode, key bytes, Init, mix, response. -/
def execKeyx (len : Nat) (s : State) : Outcome :=
  byPhase (keyxHeader len) (recvByte (keyxByte len)) s

/-- ENC (R150): header decode, block bytes with pre-whitening, rounds, response. -/
def execEnc (len : Nat) (s : State) : Outcome :=
  byPhase (blockHeader len) (recvByte (blockByte encEntry len)) s

/-- DEC (R156): header decode, block bytes, rounds with post-whitening, response. -/
def execDec (len : Nat) (s : State) : Outcome :=
  byPhase (blockHeader len) (recvByte (blockByte decEntry len)) s

end Sys2Proof.Machine
end

