-- ==== Sys2Proof/Machine/Sequencer.lean ====
section
/-! DEFINITION. The sequencer around exec: header bytes, the decode of CW, the order of marks,
configuration, reset and core step, and how a command is placed where the next step runs it. -/

namespace Sys2Proof.Machine

/-- The command CW holds is run; a reserved CW is refused by name, OPC before RSV (R90, R202, R237). -/
def runCommandWord (s : State) : Outcome :=
  match commandWord s with
  | none => raiseFault .noValue s
  | some cw =>
    match decodeWord cw with
    | .ok i => exec i s
    | .error .opcode => refuse .refOpcode s
    | .error .rsv => refuse .refRsv s

/-- A header byte in PHASE = IDLE goes to CW[8*HDRCNT+7 : 8*HDRCNT]; the fourth one decodes the
header in the same step (R201, R202). -/
def headerByte (v : Byte) (s : State) : Outcome :=
  let t := { s with CW := s.CW.set s.HDRCNT (some v) }
  if s.HDRCNT < 3 then .next { t with HDRCNT := s.HDRCNT + 1 }
  else runCommandWord { t with HDRCNT := 0 }

/-- One step of the core: a header byte in IDLE, a payload byte of the command in CW in PAY (R203
reads OPC and LEN of CW), and in the other phases the phase's own step. -/
def coreStep (s : State) : Outcome := byPhase (recvByte headerByte) runCommandWord s

/-- One step of the model. A marked state has no further step (R45); an illegal configuration is
refused (R235); a reset overrides everything else (R237, R260); else the core steps while the host
makes its listed move (log 6). -/
def tick (s : State) : Outcome :=
  match s.FAULT, s.REFUSED with
  | some r, _ => .fault r
  | none, some r => .refused r
  | none, none =>
    if s.cfg.legal = false then refuse .refConfig s
    else
      match s.host.moves with
      | .reset :: _ => .next (popMove (resetEvent s))
      | _ => onNext popMove (coreStep s)

/-- s where the core has taken the first three bytes of a frame and the host offers the rest of it, so
that the very next step takes the fourth header byte and runs the command (log 11). -/
def placeFrame (s : State) : List Byte → State
  | b0 :: b1 :: b2 :: rest =>
    { s with
      PHASE := .idle
      HDRCNT := 3
      CW := [some b0, some b1, some b2, entry s.CW 3]
      host := { s.host with cmd := rest ++ s.host.cmd, moves := [] } }
  | _ => s

end Sys2Proof.Machine
end

