-- ==== Sys2Proof/Machine/Step.lean ====
section
/-! DEFINITION. The step of the machine, and the placing of one instruction where the step fetches it. -/

namespace Sys2Proof.Machine

/-- One step of the machine (44_command_interface.md). -/
def step (s : State) : Host.Outcome State Fault Refusal := tick s

/-- s with the instruction w of nbits bits placed so that the next step runs it. -/
def State.withFetchWord (s : State) (nbits w : Nat) : State := placeFrame s (tableFrame nbits w)

end Sys2Proof.Machine
end

