-- ==== Sys2Proof/Machine/CommandLevel.lean ====
section
/-! DEFINITION. The command level of R200: a function from the schedule, KEYED and one whole command
frame to a new schedule and a response frame, a fault or a refusal. The step level agrees with it
(R209), which is stated and not assumed. -/

namespace Sys2Proof.Machine

/-- The outcome of one whole command (R200). -/
inductive CommandOutcome where
  /-- the new S and KEYED, and the response frame: ST, then DATA (R88) -/
  | done (S : List (Option Word)) (KEYED : Bool) (response : List Byte)
  /-- a model fault: no response (R234) -/
  | fault (r : Fault)
  /-- a refusal: no meaning (R235) -/
  | refused (r : Refusal)
  deriving DecidableEq, Repr

/-- KEYX at command level (R120). -/
def commandKeyx (cfg : Config) (S : List (Option Word)) (KEYED : Bool) (len : Nat) (P : List Byte) :
    CommandOutcome :=
  if len ≠ cfg.b then .done S KEYED [stInvalidKeyLength]
  else
    match expand cfg P with
    | some S' => .done S' true [stOK]
    | none => .fault .noValue

/-- ENC and DEC at command level, `f` being Encrypt or Decrypt (R150, R156). -/
def commandBlock (f : List (Option Word) → List Byte → Option (List Byte)) (cfg : Config)
    (S : List (Option Word)) (KEYED : Bool) (len : Nat) (P : List Byte) : CommandOutcome :=
  if len ≠ cfg.blockBytes then .done S KEYED [stInvalidBlockLength]
  else if KEYED = false then .fault .unkeyed
  else
    match f S P with
    | some block => .done S KEYED (stOK :: block)
    | none => .fault .noValue

/-- The command i with payload P at command level. -/
def commandOf (cfg : Config) (S : List (Option Word)) (KEYED : Bool) (i : Instr) (P : List Byte) :
    CommandOutcome :=
  match i with
  | .keyx len => commandKeyx cfg S KEYED len P
  | .enc len => commandBlock (encrypt cfg) cfg S KEYED len P
  | .dec len => commandBlock (decrypt cfg) cfg S KEYED len P

/-- Exec(state, CW, P[0..LEN-1]) (R200). -/
def execCommand (cfg : Config) (S : List (Option Word)) (KEYED : Bool) (cw : BitVec 32)
    (P : List Byte) : CommandOutcome :=
  match decodeWord cw with
  | .error .opcode => .refused .refOpcode
  | .error .rsv => .refused .refRsv
  | .ok i => commandOf cfg S KEYED i P

/-- "The number of internal steps per command is fixed by the configuration" (R208, R272): after the
last payload byte, (t - 1) + N_mix for KEYX and r for ENC and DEC of valid length, else none. -/
def internalSteps (cfg : Config) : Instr → Nat
  | .keyx len => if len = cfg.b then cfg.t - 1 + cfg.nMix else 0
  | .enc len => if len = cfg.blockBytes then cfg.r else 0
  | .dec len => if len = cfg.blockBytes then cfg.r else 0

end Sys2Proof.Machine
end

