-- ==== Sys2Proof/Safety.lean ====
section
/-! DEFINITION. What the claims are stated in: when the core takes a step, how a run ends, the invariants
of the state, and a command placed at a command boundary. -/

namespace Sys2Proof.Machine

/-! ### When the core takes a step -/

/-- No mark is set, the configuration is legal, and the host does not assert reset in this step: the
core itself steps (R45, R235, R237). -/
abbrev State.running (s : State) : Prop :=
  s.FAULT = none ∧ s.REFUSED = none ∧ s.cfg.legal = true ∧ s.host.moves.head? ≠ some .reset

/-- The host offers the byte v in this step, and `rest` after it. -/
abbrev State.offered (s : State) (v : Byte) (rest : List Byte) : Prop :=
  hostOffers s = true ∧ s.host.cmd = v :: rest

/-- s after the core took the byte before `rest` from the command stream. -/
abbrev State.received (s : State) (rest : List Byte) : State :=
  { s with host := { s.host with cmd := rest } }

/-- The phases whose steps take no command byte (R207). -/
abbrev Phase.busy (p : Phase) : Prop :=
  p = .kxInit ∨ p = .kxMix ∨ p = .enRun ∨ p = .deRun ∨ p = .resp

/-- The phases of the internal steps (R208). -/
abbrev Phase.internal (p : Phase) : Prop := p = .kxInit ∨ p = .kxMix ∨ p = .enRun ∨ p = .deRun

/-! ### The end of a run (R210) -/

/-- "PHASE = IDLE; HDRCNT = 0; the host has no byte left to send; and FAULT and REFUSED are both
none" (R210). -/
abbrev State.finished (s : State) : Prop :=
  s.PHASE = .idle ∧ s.HDRCNT = 0 ∧ s.host.cmd = [] ∧ s.FAULT = none ∧ s.REFUSED = none

/-- "A run is *bad* when FAULT or REFUSED is set" (R210). -/
abbrev State.bad (s : State) : Prop := s.FAULT ≠ none ∨ s.REFUSED ≠ none

/-- The stuck states of R210 and R236: the core waits for a host that will do no more. -/
abbrev State.stuck (s : State) : Prop :=
  s.FAULT = none ∧ s.REFUSED = none ∧ s.host.moves = [] ∧
    ((s.PHASE = .pay ∨ s.PHASE = .drain) ∧ s.host.cmd = [] ∨
      s.PHASE = .idle ∧ s.HDRCNT ≠ 0 ∧ s.host.cmd = [] ∨
      s.PHASE = .resp ∧ s.host.takes = false)

/-! ### The state invariant -/

/-- Every entry holds a value. -/
abbrev allValued {α : Type} (xs : List (Option α)) : Prop := ∀ o ∈ xs, o.isSome = true

/-- No entry holds a value. -/
abbrev noneValued {α : Type} (xs : List (Option α)) : Prop := ∀ o ∈ xs, o.isNone = true

/-- A register that holds a value holds a word of w bits (R10). -/
abbrev wordFits (w : Nat) (o : Option Word) : Prop := ∀ x ∈ o, Word.fits w x

/-- The command whose header CW holds, where it is not reserved. -/
def currentInstr (s : State) : Option Instr := (commandWord s).bind fun cw => (decodeWord cw).toOption

/-- The lengths of the arrays and the range of HDRCNT (R34, R35, R39, R41). -/
abbrev State.shapeInv (s : State) : Prop :=
  s.cfg.legal = true ∧ s.S.length = s.cfg.t ∧ s.CW.length = 4 ∧ s.DATA.length = s.cfg.blockBytes ∧
    s.L.length = s.cfg.c ∧ s.HDRCNT ≤ 3 ∧ (s.PHASE ≠ .idle → s.HDRCNT = 0)

/-- Every word is in [0, 2^w - 1] (R10, R32 to R35), and ST takes only the three codes (R42). -/
abbrev State.rangeInv (s : State) : Prop :=
  (∀ o ∈ s.S, wordFits s.cfg.w o) ∧ (∀ o ∈ s.L, wordFits s.cfg.w o) ∧ wordFits s.cfg.w s.A ∧
    wordFits s.cfg.w s.B ∧
    (∀ st ∈ s.ST, st = stOK ∨ st = stInvalidKeyLength ∨ st = stInvalidBlockLength)

/-- The working state holds no value (R47). -/
abbrev State.workingEmpty (s : State) : Prop :=
  noneValued s.L ∧ s.A = none ∧ s.B = none ∧ s.i = none ∧ s.j = none ∧ s.k = none ∧ s.rnd = none

/-- IDLE: the header bytes counted by HDRCNT hold a value; no working state. -/
abbrev State.idleInv (s : State) : Prop := allValued (s.CW.take s.HDRCNT) ∧ s.workingEmpty

/-- PAY: CW holds a command of valid length, fewer than LEN bytes have come, and the registers its
bytes go to hold values (R40, R124, R184). -/
abbrev State.payInv (s : State) : Prop :=
  (∃ n ∈ s.RXCNT,
    currentInstr s = some (.keyx s.cfg.b) ∧ n < s.cfg.b ∧ allValued s.L ∧ s.A = none ∧ s.B = none ∨
    (currentInstr s = some (.enc s.cfg.blockBytes) ∨ currentInstr s = some (.dec s.cfg.blockBytes)) ∧
      n < s.cfg.blockBytes ∧ s.KEYED = true ∧ noneValued s.L ∧ s.A.isSome ∧ s.B.isSome) ∧
    s.i = none ∧ s.j = none ∧ s.k = none ∧ s.rnd = none

/-- DRAIN: CW holds a command of wrong length, ST its error code, and fewer than LEN bytes have come
(R204). -/
abbrev State.drainInv (s : State) : Prop :=
  (∃ n ∈ s.RXCNT, ∃ i ∈ currentInstr s, n < i.len ∧
    (i = .keyx i.len ∧ i.len ≠ s.cfg.b ∧ s.ST = some stInvalidKeyLength ∨
      (i = .enc i.len ∨ i = .dec i.len) ∧ i.len ≠ s.cfg.blockBytes ∧
        s.ST = some stInvalidBlockLength)) ∧
    s.workingEmpty

/-- KX_INIT: i is in 1..t-1, the entries of S below i hold values, so do those of L (R125, R131). -/
abbrev State.kxInitInv (s : State) : Prop :=
  (∃ n ∈ s.i, 1 ≤ n ∧ n < s.cfg.t ∧ allValued (s.S.take n)) ∧ s.KEYED = false ∧ allValued s.L ∧
    s.A = none ∧ s.B = none ∧ s.j = none ∧ s.k = none ∧ s.rnd = none

/-- KX_MIX: everything the mix reads holds a value; i = k mod t and j = k mod c (R127, R128, R134). -/
abbrev State.kxMixInv (s : State) : Prop :=
  (∃ n ∈ s.k, n < s.cfg.nMix ∧ s.i = some (n % s.cfg.t) ∧ s.j = some (n % s.cfg.c)) ∧
    s.KEYED = false ∧ allValued s.S ∧ allValued s.L ∧ s.A.isSome ∧ s.B.isSome ∧ s.rnd = none

/-- EN_RUN and DE_RUN: the core is keyed, A and B hold values, rnd is in 1..r (R154, R158). -/
abbrev State.roundInv (s : State) : Prop :=
  (∃ n ∈ s.rnd, 1 ≤ n ∧ n ≤ s.cfg.r) ∧ s.KEYED = true ∧ s.A.isSome ∧ s.B.isSome ∧ noneValued s.L ∧
    s.i = none ∧ s.j = none ∧ s.k = none

/-- RESP: a response is loaded; data only with ST = OK (R41, R88); no working state. -/
abbrev State.respInv (s : State) : Prop :=
  s.ST.isSome ∧
    (∃ n ∈ s.TXCNT, ∃ m ∈ s.RLEN, n ≤ m ∧ allValued (s.DATA.take m) ∧
      (m = 0 ∨ m = s.cfg.blockBytes ∧ s.ST = some stOK)) ∧
    s.workingEmpty

/-- The state invariant of the core: what every run from a reset state keeps. It says that no rule
reads an entry that holds no value (R14): F_NOVALUE is never raised. -/
structure State.Inv (s : State) : Prop where
  shape : s.shapeInv
  range : s.rangeInv
  /-- KEYED = 1 means S holds a schedule (R37) -/
  keyed : s.KEYED = true → allValued s.S
  /-- "no rule of this spec does" raise F_NOVALUE (R234) -/
  noNoValue : s.FAULT ≠ some .noValue
  idle : s.PHASE = .idle → s.idleInv
  pay : s.PHASE = .pay → s.payInv
  drain : s.PHASE = .drain → s.drainInv
  kxInit : s.PHASE = .kxInit → s.kxInitInv
  kxMix : s.PHASE = .kxMix → s.kxMixInv
  enRun : s.PHASE = .enRun → s.roundInv
  deRun : s.PHASE = .deRun → s.roundInv
  resp : s.PHASE = .resp → s.respInv

/-! ### The schedule invariant (R46) -/

/-- The key bytes K written into L as they arrive, from byte n on (R124). -/
def placeKey (u : Nat) (L : List (Option Word)) : Nat → List Byte → Option (List (Option Word))
  | _, [] => some L
  | n, v :: K => (placeKeyByte u L n v).bind fun L' => placeKey u L' (n + 1) K

/-- R46 and what it rests on while a KEYX is in progress: KEYED = 1 means S is the expansion of a key
of b bytes; in PAY, L holds the key bytes so far; in KX_INIT and KX_MIX, L and S are those of the
source's loops for one key. -/
def State.ScheduleInv (s : State) : Prop :=
  (s.KEYED = true → ∃ K : List Byte, K.length = s.cfg.b ∧ expand s.cfg K = some s.S) ∧
  (s.PHASE = .pay → currentInstr s = some (.keyx s.cfg.b) →
    ∃ K : List Byte, s.RXCNT = some K.length ∧
      placeKey s.cfg.u (List.replicate s.cfg.c (some 0)) 0 K = some s.L) ∧
  (s.PHASE = .kxInit → ∃ K : List Byte, K.length = s.cfg.b ∧ pack s.cfg K = some s.L ∧
    ∃ n S, s.i = some n ∧ init s.cfg = some S ∧ s.S.take n = S.take n) ∧
  (s.PHASE = .kxMix → ∃ K : List Byte, K.length = s.cfg.b ∧ ∃ n S L m,
    s.k = some n ∧ init s.cfg = some S ∧ pack s.cfg K = some L ∧
      mixLoop s.cfg n (mixStart S L) = some m ∧ m.S = s.S ∧ m.L = s.L ∧ some m.A = s.A ∧
      some m.B = s.B ∧ some m.i = s.i ∧ some m.j = s.j)

/-! ### Commands at a boundary -/

/-- "Start in PHASE = IDLE with HDRCNT = 0", the host ready to send and to take every byte, no mark
set, and `bytes` at the head of the command stream (R209). -/
abbrev State.boundary (s : State) (bytes : List Byte) : Prop :=
  s.Inv ∧ s.FAULT = none ∧ s.REFUSED = none ∧ s.PHASE = .idle ∧ s.HDRCNT = 0 ∧ s.host.moves = [] ∧
    s.host.takes = true ∧ s.host.cmd = bytes

/-- The state a command leaves once its response has been taken: IDLE again, no mark, the response
appended to what the host has, `rest` still to be taken, the working state empty (R209, R240). -/
abbrev State.after (s t : State) (response rest : List Byte) : Prop :=
  t.PHASE = .idle ∧ t.HDRCNT = 0 ∧ t.FAULT = none ∧ t.REFUSED = none ∧ t.cfg = s.cfg ∧
    t.host = { s.host with cmd := rest, got := s.host.got ++ response } ∧ t.workingEmpty

end Sys2Proof.Machine
end

