-- ==== Sys2Proof/Certificates/Slice0/Obligations.lean ====
section
/-! DEFINITION. The statements about the model, each from the numbered rules of spec/. -/

open Sys2Proof Sys2Proof.Machine

/-! ### Encoding (30_encoding.md) -/

/-- R81, R82, R85: the header bytes of every well-formed command decode to that command, whatever
bytes follow them. No bit of LEN, RSV or OPC is dropped. -/
def Obligations.DecodeOfEncodeIsTheCommand : Prop :=
  ∀ (i : Instr) (rest : List Byte), i.wellFormed → decode (encode i ++ rest) = .ok (i, rest)

/-- R82, R83, R84: a command word that decodes is the encoding of the command it decodes to. -/
def Obligations.EncodeOfDecodeIsTheWord : Prop :=
  ∀ (cw : BitVec 32) (i : Instr), decodeWord cw = .ok i → i.wellFormed ∧ encodeWord i = cw

/-- R90, R84: exactly the headers with OPC outside 0x01..0x03 are reserved for their OPC, exactly
those with a command's OPC and RSV != 0 for their RSV, and every other header is a command. -/
def Obligations.ReservedHeadersAreExactlyThese : Prop :=
  ∀ cw : BitVec 32,
    (decodeWord cw = .error .opcode ↔ opcOf cw ∉ [0x01#8, 0x02#8, 0x03#8]) ∧
    (decodeWord cw = .error .rsv ↔ opcOf cw ∈ [0x01#8, 0x02#8, 0x03#8] ∧ rsvOf cw ≠ 0x00#8) ∧
    (decodeWord cw = .ok (.keyx (lenOf cw)) ↔ opcOf cw = 0x01#8 ∧ rsvOf cw = 0x00#8) ∧
    (decodeWord cw = .ok (.enc (lenOf cw)) ↔ opcOf cw = 0x02#8 ∧ rsvOf cw = 0x00#8) ∧
    (decodeWord cw = .ok (.dec (lenOf cw)) ↔ opcOf cw = 0x03#8 ∧ rsvOf cw = 0x00#8)

/-- R86, R91: what the assembler writes for a mnemonic with bytes is one whole frame, LEN being the
number of bytes; R85: more than 65535 bytes have no frame. -/
def Obligations.AssembledLineIsOneFrame : Prop :=
  ∀ bytes rest : List Byte,
    (bytes.length < 65536 →
      (∃ f, assembleLine (.keyx bytes) = some f ∧ f.length = 4 + bytes.length ∧
        decodeFrame (f ++ rest) = .ok (⟨.keyx bytes.length, bytes⟩, rest)) ∧
      (∃ f, assembleLine (.enc bytes) = some f ∧ f.length = 4 + bytes.length ∧
        decodeFrame (f ++ rest) = .ok (⟨.enc bytes.length, bytes⟩, rest)) ∧
      (∃ f, assembleLine (.dec bytes) = some f ∧ f.length = 4 + bytes.length ∧
        decodeFrame (f ++ rest) = .ok (⟨.dec bytes.length, bytes⟩, rest))) ∧
    (65536 ≤ bytes.length → assembleLine (.keyx bytes) = none ∧ assembleLine (.enc bytes) = none ∧
      assembleLine (.dec bytes) = none)

/-- R93: each row of the spec's table of worked encodings, its command word, its bytes on the stream and
what the decoder reads from them. -/
def Obligations.WorkedEncodingsDecode : Prop :=
  ∀ row ∈ ([
      (0x00100001#32, [0x01#8, 0x00#8, 0x10#8, 0x00#8], .ok (.keyx 16, [])),
      (0x00040001#32, [0x01#8, 0x00#8, 0x04#8, 0x00#8], .ok (.keyx 4, [])),
      (0x00080001#32, [0x01#8, 0x00#8, 0x08#8, 0x00#8], .ok (.keyx 8, [])),
      (0x00000001#32, [0x01#8, 0x00#8, 0x00#8, 0x00#8], .ok (.keyx 0, [])),
      (0x00080002#32, [0x02#8, 0x00#8, 0x08#8, 0x00#8], .ok (.enc 8, [])),
      (0x00080003#32, [0x03#8, 0x00#8, 0x08#8, 0x00#8], .ok (.dec 8, [])),
      (0x00020002#32, [0x02#8, 0x00#8, 0x02#8, 0x00#8], .ok (.enc 2, [])),
      (0x00040002#32, [0x02#8, 0x00#8, 0x04#8, 0x00#8], .ok (.enc 4, [])),
      (0x00100003#32, [0x03#8, 0x00#8, 0x10#8, 0x00#8], .ok (.dec 16, [])),
      (0x00000004#32, [0x04#8, 0x00#8, 0x00#8, 0x00#8], .error (.reserved .opcode)),
      (0x00080102#32, [0x02#8, 0x01#8, 0x08#8, 0x00#8], .error (.reserved .rsv))] :
    List (BitVec 32 × List Byte × Except DecodeError (Instr × List Byte))),
    bytesOfWord row.1 = row.2.1 ∧ decode row.2.1 = row.2.2

/-! ### Parameters (00_scope.md) -/

/-- R8: the named configurations with their derived columns u, t, c, N_mix and block bytes; and the other
triples in the ranges of R5, w = 64 among them, are configurations too. -/
def Obligations.NamedConfigurationsAreThoseOfTheTable : Prop :=
  (∀ row ∈ ([
      (.rc5_8_12_4, ⟨8, 12, 4⟩, 1, 26, 4, 78, 2),
      (.rc5_16_16_8, ⟨16, 16, 8⟩, 2, 34, 4, 102, 4),
      (.rc5_32_12_16, ⟨32, 12, 16⟩, 4, 26, 4, 78, 8),
      (.rc5_32_20_16, ⟨32, 20, 16⟩, 4, 42, 4, 126, 8)] :
    List (Config × Config × Nat × Nat × Nat × Nat × Nat)),
    row.1 = row.2.1 ∧ row.1.legal = true ∧
      (row.1.u, row.1.t, row.1.c, row.1.nMix, row.1.blockBytes) = row.2.2) ∧
  ∀ w r b : Nat, w = 8 ∨ w = 16 ∨ w = 32 ∨ w = 64 → r ≤ 255 → b ≤ 255 →
    (⟨w, r, b⟩ : Config).legal = true

/-! ### The step around exec (44_command_interface.md, 60_exceptions.md, 70_reset_and_hazards.md) -/

/-- R201 to R203: the step that takes the fourth header byte is exec of the command the header
decodes to, on the state with that byte in CW and HDRCNT back at 0; a step in PAY is exec of the
command in CW; a step in any later phase is exec of whichever command. Around exec, the step uses up
one listed move of the host (log 6: the model's choice). -/
def Obligations.StepRunsTheDecodedCommand : Prop :=
  (∀ (s : State) (b0 b1 b2 v : Byte) (rest : List Byte) (i : Instr),
    s.running → s.PHASE = .idle → s.HDRCNT = 3 → s.CW.length = 4 → entry s.CW 0 = some b0 →
    entry s.CW 1 = some b1 → entry s.CW 2 = some b2 → s.offered v rest →
    decode [b0, b1, b2, v] = .ok (i, []) →
    step s = onNext popMove
      (exec i { s.received rest with CW := s.CW.set 3 (some v), HDRCNT := 0 })) ∧
  (∀ (s : State) (cw : BitVec 32) (i : Instr),
    s.running → s.PHASE = .pay → commandWord s = some cw → decodeWord cw = .ok i →
    step s = onNext popMove (exec i s)) ∧
  (∀ (s : State) (i : Instr),
    s.running → s.PHASE ≠ .idle → s.PHASE ≠ .pay → step s = onNext popMove (exec i s))

/-- A command placed by withFetchWord is run by the very next step (R202): for every word whose bits
decode, the step is exec of the command decodeTableWord reads, with the header in CW and as many payload
bytes as LEN says at the head of the command stream (log 11: the model's choice of the placing). -/
def Obligations.PlacedCommandRunsNext : Prop :=
  ∀ (s : State) (nbits w : Nat) (i : Instr),
    s.FAULT = none → s.REFUSED = none → s.cfg.legal = true → decodeTableWord nbits w = some i →
    let v := w % 2 ^ nbits
    decodeWord (BitVec.ofNat 32 v) = .ok i ∧ (bytesFrom v 4 i.len).length = i.len ∧
      step (s.withFetchWord nbits w) = onNext popMove
        (exec i { (s.withFetchWord nbits w).received (bytesFrom v 4 i.len ++ s.host.cmd) with
          CW := (bytesOfWord (BitVec.ofNat 32 v)).map some, HDRCNT := 0 })

/-- R201: in IDLE with HDRCNT < 3 an offered byte v goes to byte HDRCNT of CW and HDRCNT counts it.
The step also uses up one listed move of the host (log 6: the model's choice). -/
def Obligations.HeaderByteGoesToItsLane : Prop :=
  ∀ (s : State) (v : Byte) (rest : List Byte),
    s.running → s.PHASE = .idle → s.HDRCNT < 3 → s.offered v rest →
    step s = .next (popMove
      { s.received rest with CW := s.CW.set s.HDRCNT (some v), HDRCNT := s.HDRCNT + 1 })

/-- R90, R202: the fourth byte of a reserved header sets REFUSED, REF_OPCODE before REF_RSV, changes no
other register than CW and HDRCNT, and the core takes no further step. The refusing step also uses up
one listed move of the host (log 6: the model's choice). -/
def Obligations.ReservedHeaderIsRefused : Prop :=
  ∀ (s : State) (b0 b1 b2 v : Byte) (rest : List Byte),
    s.running → s.PHASE = .idle → s.HDRCNT = 3 → s.CW.length = 4 → entry s.CW 0 = some b0 →
    entry s.CW 1 = some b1 → entry s.CW 2 = some b2 → s.offered v rest →
    (b0 ∉ [0x01#8, 0x02#8, 0x03#8] →
      ∃ t, step s = .next t ∧ step t = .refused .refOpcode ∧ t = popMove
        { s.received rest with
          CW := s.CW.set 3 (some v), HDRCNT := 0, REFUSED := some .refOpcode }) ∧
    (b0 ∈ [0x01#8, 0x02#8, 0x03#8] → b1 ≠ 0x00#8 →
      ∃ t, step s = .next t ∧ step t = .refused .refRsv ∧ t = popMove
        { s.received rest with
          CW := s.CW.set 3 (some v), HDRCNT := 0, REFUSED := some .refRsv })

/-- R45: "A state with either mark set has no further step", whatever the host does, a reset
included. That a state with both marks answers its fault is the model's choice (log 19). -/
def Obligations.MarkedStateHasNoFurtherStep : Prop :=
  ∀ (s : State) (h : HostAgent) (f : Fault) (r : Refusal),
    (s.FAULT = some f → step { s with host := h } = .fault f) ∧
    (s.FAULT = none → s.REFUSED = some r → step { s with host := h } = .refused r)

/-- R5, R235: a core whose triple is outside the ranges of R5 is refused with REF_CONFIG by its first
step (log 12: the model's choice of the moment), and a core whose triple is in the ranges never is. -/
def Obligations.IllegalConfigurationIsRefused : Prop :=
  (∀ w r b : Nat, (⟨w, r, b⟩ : Config).legal = true ↔
    (w = 8 ∨ w = 16 ∨ w = 32 ∨ w = 64) ∧ r ≤ 255 ∧ b ≤ 255) ∧
  (∀ s : State, s.FAULT = none → s.REFUSED = none → s.cfg.legal = false →
    step s = .next { s with REFUSED := some .refConfig }) ∧
  (∀ s t : State, s.cfg.legal = true → step s = .next t → t.REFUSED ≠ some .refConfig)

/-- R260, R261: a reset, in any phase, sets every register to its reset value, keeps the marks and the
configuration, abandons the command in progress and sends nothing. That the host keeps its unsent bytes
and the responses it has is log 9 (DEDUCED), and that the reset is a listed move, used up by the step,
is log 6: the model's choices. -/
def Obligations.ResetEventSetsEveryRegister : Prop :=
  ∀ (s : State) (ms : List HostMove),
    s.FAULT = none → s.REFUSED = none → s.cfg.legal = true → s.host.moves = .reset :: ms →
    step s = .next
      { cfg := s.cfg
        S := List.replicate s.cfg.t none
        KEYED := false
        PHASE := .idle
        HDRCNT := 0
        CW := [none, none, none, none]
        RXCNT := none
        ST := none
        DATA := List.replicate s.cfg.blockBytes none
        RLEN := none
        TXCNT := none
        L := List.replicate s.cfg.c none
        A := none
        B := none
        i := none
        j := none
        k := none
        rnd := none
        FAULT := s.FAULT
        REFUSED := s.REFUSED
        host := { s.host with moves := ms } }

/-- R260: what reset leaves, for a core of every configuration: IDLE, unkeyed, no header byte, no
value in any other register or array entry. -/
def Obligations.ResetStateHoldsTheResetValues : Prop :=
  ∀ cfg : Config, (State.resetFor cfg).PHASE = .idle ∧ (State.resetFor cfg).KEYED = false ∧
    (State.resetFor cfg).HDRCNT = 0 ∧ noneValued (State.resetFor cfg).S ∧
    (State.resetFor cfg).S.length = 2 * (cfg.r + 1) ∧ noneValued (State.resetFor cfg).CW ∧
    (State.resetFor cfg).RXCNT = none ∧ (State.resetFor cfg).ST = none ∧
    noneValued (State.resetFor cfg).DATA ∧ (State.resetFor cfg).RLEN = none ∧
    (State.resetFor cfg).TXCNT = none ∧ (State.resetFor cfg).workingEmpty

/-- R205: respond(st, data) loads ST, DATA[0..], RLEN and TXCNT, goes to RESP, and leaves L, A, B, i,
j, k and rnd with no value; nothing else changes. -/
def Obligations.RespondLoadsTheResponse : Prop :=
  ∀ (st : Byte) (data : List Byte) (s : State),
    (respond st data s).ST = some st ∧
    (∀ n, n < data.length → entry (respond st data s).DATA n = data[n]?) ∧
    (∀ n, data.length ≤ n → n < s.DATA.length →
      entry (respond st data s).DATA n = entry s.DATA n) ∧
    (respond st data s).RLEN = some data.length ∧ (respond st data s).TXCNT = some 0 ∧
    (respond st data s).PHASE = .resp ∧ (respond st data s).workingEmpty ∧
    (respond st data s).L.length = s.cfg.c ∧
    { respond st data s with
      ST := s.ST, DATA := s.DATA, RLEN := s.RLEN, TXCNT := s.TXCNT, PHASE := s.PHASE, L := s.L
      A := s.A, B := s.B, i := s.i, j := s.j, k := s.k, rnd := s.rnd } = s

/-! ### KEYX (41_key_schedule.md) -/

/-- R121, R202: the header decode of a KEYX with LEN != b writes RXCNT, ST and PHASE: DRAIN when LEN is
not 0, and the InvalidKeyLength response at once when it is. S and KEYED stay. -/
def Obligations.KeyxOfWrongLength : Prop :=
  ∀ (len : Nat) (s : State), s.PHASE = .idle → len ≠ s.cfg.b →
    (len ≠ 0 → exec (.keyx len) s =
      .next { s with RXCNT := some 0, ST := some 0x01#8, PHASE := .drain }) ∧
    (len = 0 → exec (.keyx len) s = .next (respond 0x01#8 [] { s with RXCNT := some 0 }))

/-- R124, R125, R131, R202: the header decode of a KEYX with LEN = b clears every word of L and goes
to PAY; with b = 0 it starts Init: KEYED <- 0, S[0] <- P_w, i <- 1, PHASE <- KX_INIT. -/
def Obligations.KeyxOfValidLength : Prop :=
  ∀ s : State, s.PHASE = .idle →
    (s.cfg.b ≠ 0 → exec (.keyx s.cfg.b) s =
      .next { s with RXCNT := some 0, L := List.replicate s.cfg.c (some 0), PHASE := .pay }) ∧
    (s.cfg.b = 0 → exec (.keyx s.cfg.b) s =
      .next { s with
        RXCNT := some 0
        L := List.replicate s.cfg.c (some 0)
        KEYED := false
        S := s.S.set 0 s.cfg.magicP
        i := some 1
        PHASE := .kxInit })

/-- R124, R203, R125, R131: in PAY, key byte n of a KEYX goes to lane n mod u of L[n / u] and RXCNT
counts it; the last byte starts Init in the same step. -/
def Obligations.KeyxByteGoesToItsLane : Prop :=
  ∀ (len n : Nat) (s : State) (v : Byte) (rest : List Byte) (x : Word),
    s.PHASE = .pay → s.RXCNT = some n → entry s.L (n / s.cfg.u) = some x → s.offered v rest →
    (n + 1 ≠ len → exec (.keyx len) s =
      .next { s.received rest with
        L := s.L.set (n / s.cfg.u) (some (setByteLane x (n % s.cfg.u) v)), RXCNT := some (n + 1) }) ∧
    (n + 1 = len → exec (.keyx len) s =
      .next { s.received rest with
        L := s.L.set (n / s.cfg.u) (some (setByteLane x (n % s.cfg.u) v))
        RXCNT := some (n + 1)
        KEYED := false
        S := s.S.set 0 s.cfg.magicP
        i := some 1
        PHASE := .kxInit })

/-- R125, R126: in KX_INIT, S[i] <- S[i-1] +w Q_w and i <- i + 1; when i reaches t the same step sets
up the mix. -/
def Obligations.KeyxInitStep : Prop :=
  ∀ (len n : Nat) (s : State) (x q : Word),
    s.PHASE = .kxInit → s.i = some n → entry s.S (n - 1) = some x → s.cfg.magicQ = some q →
    (n + 1 ≠ s.cfg.t → exec (.keyx len) s =
      .next { s with S := s.S.set n (some ((x + q) % 2 ^ s.cfg.w)), i := some (n + 1) }) ∧
    (n + 1 = s.cfg.t → exec (.keyx len) s =
      .next { s with
        S := s.S.set n (some ((x + q) % 2 ^ s.cfg.w))
        A := some 0
        B := some 0
        i := some 0
        j := some 0
        k := some 0
        PHASE := .kxMix })

/-- R127, R128, R130: in KX_MIX, one mix iteration, the L update reading the new A; the step that makes
k = N_mix = 3 * max(t, c) (R6) also sets KEYED and responds OK with no data. -/
def Obligations.KeyxMixStep : Prop :=
  ∀ (len m n q : Nat) (s : State) (x y a b : Word),
    s.PHASE = .kxMix → s.i = some m → s.j = some n → s.k = some q → s.A = some a → s.B = some b →
    entry s.S m = some x → entry s.L n = some y →
    let a' := rolW s.cfg.w ((x + a + b) % 2 ^ s.cfg.w) 3
    let b' := rolW s.cfg.w ((y + a' + b) % 2 ^ s.cfg.w) ((a' + b) % 2 ^ s.cfg.w)
    (q + 1 ≠ 3 * max (2 * (s.cfg.r + 1)) s.cfg.c → exec (.keyx len) s =
      .next { s with
        S := s.S.set m (some a')
        A := some a'
        L := s.L.set n (some b')
        B := some b'
        i := some ((m + 1) % s.cfg.t)
        j := some ((n + 1) % s.cfg.c)
        k := some (q + 1) }) ∧
    (q + 1 = 3 * max (2 * (s.cfg.r + 1)) s.cfg.c → exec (.keyx len) s =
      .next (respond 0x00#8 [] { s with S := s.S.set m (some a'), KEYED := true }))

/-- R123: Pack gives each word of L the key bytes of its lanes, missing bytes read as zero; L has
c = max(1, ceil(b / u)) words (R6, R133). -/
def Obligations.PackIsTheByteLaneLayout : Prop :=
  ∀ (cfg : Config) (K : List Byte), cfg.legal = true → K.length = cfg.b →
    cfg.c = max 1 ((cfg.b + cfg.u - 1) / cfg.u) ∧
    ∃ L, pack cfg K = some L ∧ L.length = cfg.c ∧ ∀ m, m < cfg.c →
      entry L m = some (((List.range cfg.u).filter fun q => m * cfg.u + q < cfg.b).map
        fun q => (K.getD (m * cfg.u + q) 0).toNat * 2 ^ (8 * q)).sum

/-- R124: writing the key bytes into their lanes in arrival order gives Pack(K). -/
def Obligations.ArrivalPlacementGivesPack : Prop :=
  ∀ (cfg : Config) (K : List Byte), cfg.legal = true → K.length = cfg.b →
    ∃ L, placeKey cfg.u (List.replicate cfg.c (some 0)) 0 K = some L ∧ pack cfg K = some L

/-- R7, R125: P_w and Q_w are those of R7's table (the rows of w = 8 and w = 64 are PRESUMED, log 10), and
Init gives S[n] = (P_w + n * Q_w) mod 2^w for n in [0, t-1]; it does not depend on the key. -/
def Obligations.InitGivesTheArithmeticSequence : Prop :=
  ∀ (cfg : Config) (p q : Word), cfg.legal = true →
    (cfg.w, p, q) ∈ [(8, 0xB7, 0x9F), (16, 0xB7E1, 0x9E37), (32, 0xB7E15163, 0x9E3779B9),
      (64, 0xB7E151628AED2A6B, 0x9E3779B97F4A7C15)] →
    cfg.magicP = some p ∧ cfg.magicQ = some q ∧
    ∃ S, init cfg = some S ∧ S.length = cfg.t ∧
      ∀ n, n < cfg.t → entry S n = some ((p + n * q) % 2 ^ cfg.w)

/-- R134: in mix iteration number k, counting from 0, the S entry updated is k mod t, to the new A, and
the L entry updated is k mod c, to the new B. -/
def Obligations.MixIndexSequence : Prop :=
  ∀ (cfg : Config) (S L : List (Option Word)) (k : Nat) (m m' : MixVars),
    mixLoop cfg k (mixStart S L) = some m → mixIteration cfg m = some m' →
    m'.S = m.S.set (k % cfg.t) (some m'.A) ∧ m'.L = m.L.set (k % cfg.c) (some m'.B)

/-- R34, R120, R233: key expansion of a key of b bytes always completes, with t entries, each a word
of w bits. -/
def Obligations.ExpandGivesAFullSchedule : Prop :=
  ∀ (cfg : Config) (K : List Byte), cfg.legal = true → K.length = cfg.b →
    ∃ S, expand cfg K = some S ∧ S.length = 2 * (cfg.r + 1) ∧
      ∀ n, n < S.length → ∃ x, entry S n = some x ∧ Word.fits cfg.w x

/-! ### ENC and DEC (42_block_transform.md) -/

/-- R151, R152, R184, R202, R237: the header decode of an ENC or DEC makes the length check first, then
the keyed check. LEN != 2u: DRAIN or, with LEN = 0, the InvalidBlockLength response at once, keyed or
not. LEN = 2u and KEYED = 0: F_UNKEYED, after which the core takes no further step. LEN = 2u and
KEYED = 1: A <- 0, B <- 0, PAY. -/
def Obligations.BlockCommandHeaderChecks : Prop :=
  ∀ (len : Nat) (i : Instr) (s : State), i = .enc len ∨ i = .dec len → s.PHASE = .idle →
    (len ≠ s.cfg.blockBytes → len ≠ 0 → exec i s =
      .next { s with RXCNT := some 0, ST := some 0x02#8, PHASE := .drain }) ∧
    (len ≠ s.cfg.blockBytes → len = 0 → exec i s =
      .next (respond 0x02#8 [] { s with RXCNT := some 0 })) ∧
    (len = s.cfg.blockBytes → s.KEYED = false → exec i s =
        .next { s with RXCNT := some 0, FAULT := some .unkeyed } ∧
      ∀ h : HostAgent, step { s with RXCNT := some 0, FAULT := some .unkeyed, host := h } =
        .fault .unkeyed) ∧
    (len = s.cfg.blockBytes → s.KEYED = true → exec i s =
      .next { s with RXCNT := some 0, A := some 0, B := some 0, PHASE := .pay })

/-- R184, R203: in PAY, block byte n of an ENC or DEC that is not the last goes to lane n of A when
n < u, and to lane n - u of B otherwise. -/
def Obligations.BlockByteGoesToItsLane : Prop :=
  ∀ (len n : Nat) (i : Instr) (s : State) (v : Byte) (rest : List Byte) (a b : Word),
    i = .enc len ∨ i = .dec len → s.PHASE = .pay → s.RXCNT = some n → s.A = some a →
    s.B = some b → s.offered v rest → n + 1 ≠ len →
    (n < s.cfg.u → exec i s =
      .next { s.received rest with A := some (setByteLane a n v), RXCNT := some (n + 1) }) ∧
    (s.cfg.u ≤ n → exec i s =
      .next { s.received rest with B := some (setByteLane b (n - s.cfg.u) v), RXCNT := some (n + 1) })

/-- R153, R155, R163: the step that places the last payload byte of an ENC pre-whitens; it goes to
EN_RUN with rnd = 1, or with r = 0 it responds OK with the block. -/
def Obligations.EncPreWhitening : Prop :=
  ∀ (len n : Nat) (s : State) (v : Byte) (rest : List Byte) (a b x y : Word),
    s.PHASE = .pay → s.RXCNT = some n → n + 1 = len → s.A = some a → s.B = some b →
    entry s.S 0 = some x → entry s.S 1 = some y → s.offered v rest →
    let ab := placeBlockByte s.cfg.u (a, b) n v
    let a' := (ab.1 + x) % 2 ^ s.cfg.w
    let b' := (ab.2 + y) % 2 ^ s.cfg.w
    (s.cfg.r ≠ 0 → exec (.enc len) s =
      .next { s.received rest with
        RXCNT := some (n + 1), A := some a', B := some b', rnd := some 1, PHASE := .enRun }) ∧
    (s.cfg.r = 0 → exec (.enc len) s =
      .next (respond 0x00#8 (wordsToBlock s.cfg.u a' b') { s.received rest with RXCNT := some (n + 1) }))

/-- R154, R155: in EN_RUN, round rnd: A first, rotated by the old B; then B, with the new A in the XOR
and as the amount; round r responds OK with the block. -/
def Obligations.EncRoundStep : Prop :=
  ∀ (len n : Nat) (s : State) (a b x y : Word),
    s.PHASE = .enRun → s.rnd = some n → s.A = some a → s.B = some b →
    entry s.S (2 * n) = some x → entry s.S (2 * n + 1) = some y →
    let a' := (rolW s.cfg.w (a ^^^ b) b + x) % 2 ^ s.cfg.w
    let b' := (rolW s.cfg.w (b ^^^ a') a' + y) % 2 ^ s.cfg.w
    (n ≠ s.cfg.r → exec (.enc len) s =
      .next { s with A := some a', B := some b', rnd := some (n + 1) }) ∧
    (n = s.cfg.r → exec (.enc len) s =
      .next (respond 0x00#8 (wordsToBlock s.cfg.u a' b') s))

/-- R157, R159, R160, R163: the step that places the last payload byte of a DEC goes to DE_RUN with
rnd = r, or with r = 0 it post-whitens and responds OK with the block. -/
def Obligations.DecEntry : Prop :=
  ∀ (len n : Nat) (s : State) (v : Byte) (rest : List Byte) (a b : Word),
    s.PHASE = .pay → s.RXCNT = some n → n + 1 = len → s.A = some a → s.B = some b →
    s.offered v rest →
    let ab := placeBlockByte s.cfg.u (a, b) n v
    (s.cfg.r ≠ 0 → exec (.dec len) s =
      .next { s.received rest with
        RXCNT := some (n + 1), A := some ab.1, B := some ab.2, rnd := some s.cfg.r
        PHASE := .deRun }) ∧
    (∀ x y, s.cfg.r = 0 → entry s.S 0 = some x → entry s.S 1 = some y → exec (.dec len) s =
      .next (respond 0x00#8
        (wordsToBlock s.cfg.u ((ab.1 + 2 ^ s.cfg.w - x) % 2 ^ s.cfg.w)
          ((ab.2 + 2 ^ s.cfg.w - y) % 2 ^ s.cfg.w))
        { s.received rest with RXCNT := some (n + 1) }))

/-- R158, R159, R160: in DE_RUN, round rnd: B first, then A with the new B; the subtraction, then the
rotation, then the XOR; the step that makes rnd = 0 also post-whitens and responds OK. -/
def Obligations.DecRoundStep : Prop :=
  ∀ (len n : Nat) (s : State) (a b x y : Word),
    s.PHASE = .deRun → s.rnd = some (n + 1) → s.A = some a → s.B = some b →
    entry s.S (2 * (n + 1)) = some x → entry s.S (2 * (n + 1) + 1) = some y →
    let b' := rorW s.cfg.w ((b + 2 ^ s.cfg.w - y) % 2 ^ s.cfg.w) a ^^^ a
    let a' := rorW s.cfg.w ((a + 2 ^ s.cfg.w - x) % 2 ^ s.cfg.w) b' ^^^ b'
    (n ≠ 0 → exec (.dec len) s =
      .next { s with A := some a', B := some b', rnd := some n }) ∧
    (∀ p q, n = 0 → entry s.S 0 = some p → entry s.S 1 = some q → exec (.dec len) s =
      .next (respond 0x00#8
        (wordsToBlock s.cfg.u ((a' + 2 ^ s.cfg.w - p) % 2 ^ s.cfg.w)
          ((b' + 2 ^ s.cfg.w - q) % 2 ^ s.cfg.w)) s))

/-- R161: decryption inverts encryption and encryption inverts decryption, for every configuration,
every key of b bytes and every block of 2u bytes; and DEC round n + 1 takes the ENC state after round
n + 1 back to that after round n. -/
def Obligations.DecryptInvertsEncrypt : Prop :=
  ∀ (cfg : Config) (K P : List Byte), cfg.legal = true → K.length = cfg.b →
    P.length = cfg.blockBytes →
    ∃ S, expand cfg K = some S ∧
      (∃ C, encrypt cfg S P = some C ∧ C.length = cfg.blockBytes ∧ decrypt cfg S C = some P) ∧
      (∃ D, decrypt cfg S P = some D ∧ D.length = cfg.blockBytes ∧ encrypt cfg S D = some P) ∧
      ∀ (n : Nat) (ab : Word × Word), n < cfg.r → Word.fits cfg.w ab.1 → Word.fits cfg.w ab.2 →
        ∃ before after, encRounds cfg S n ab = some before ∧
          encRounds cfg S (n + 1) ab = some after ∧ decRound cfg S (n + 1) after = some before

/-- R163: with r = 0, t = 2, ENC computes (A_0 +w S[0], B_0 +w S[1]), DEC (A_0 -w S[0], B_0 -w S[1]),
and no step enters EN_RUN or DE_RUN. -/
def Obligations.ZeroRoundsOnlyWhiten : Prop :=
  (∀ (cfg : Config) (S : List (Option Word)) (P : List Byte) (x y : Word),
    cfg.r = 0 → entry S 0 = some x → entry S 1 = some y →
    cfg.t = 2 ∧
    encrypt cfg S P = some (wordsToBlock cfg.u
      (((blockToWords cfg.u P).1 + x) % 2 ^ cfg.w) (((blockToWords cfg.u P).2 + y) % 2 ^ cfg.w)) ∧
    decrypt cfg S P = some (wordsToBlock cfg.u
      (((blockToWords cfg.u P).1 + 2 ^ cfg.w - x) % 2 ^ cfg.w)
      (((blockToWords cfg.u P).2 + 2 ^ cfg.w - y) % 2 ^ cfg.w))) ∧
  ∀ s t : State, s.cfg.r = 0 → s.PHASE ≠ .enRun → s.PHASE ≠ .deRun → step s = .next t →
    t.PHASE ≠ .enRun ∧ t.PHASE ≠ .deRun

/-! ### Marshaller and word datapath (43_marshaller.md, 40_word_datapath.md) -/

/-- R185: decode and encode of a word's bytes are inverse both ways, a block survives the way to words
and back, and an output block has 2u bytes. -/
def Obligations.MarshallerLaws : Prop :=
  ∀ u : Nat,
    (∀ x, x < 2 ^ (8 * u) → leDecode (leEncode u x) = x) ∧
    (∀ d : List Byte, d.length = u → leEncode u (leDecode d) = d) ∧
    (∀ p : List Byte, p.length = 2 * u →
      wordsToBlock u (blockToWords u p).1 (blockToWords u p).2 = p) ∧
    (∀ a b, (wordsToBlock u a b).length = 2 * u)

/-- R67: writing byte lane q of a word changes bits 8q to 8q+7 to the byte's and no other bit. -/
def Obligations.ByteLaneWriteIsLocal : Prop :=
  ∀ (x : Word) (q : Nat) (v : Byte) (m : Nat),
    (setByteLane x q v).testBit m =
      if 8 * q ≤ m ∧ m < 8 * q + 8 then v.getLsbD (m - 8 * q) else x.testBit m

/-- R184: the block bytes written into their lanes of cleared A and B in arrival order give
BLOCK_TO_WORDS of the block. -/
def Obligations.BlockLoaderGivesBlockToWords : Prop :=
  ∀ (u : Nat) (p : List Byte), p.length = 2 * u →
    (p.zipIdx.foldl (fun ab vn => placeBlockByte u ab vn.2 vn.1) (0, 0)) = blockToWords u p

/-- R110: the laws of the word datapath, for every width of R5 and all w-bit words. -/
def Obligations.WordDatapathLaws : Prop :=
  ∀ w x y z : Nat, w ∈ [8, 16, 32, 64] → Word.fits w x → Word.fits w y → Word.fits w z →
    rorW w (rolW w x y) y = x ∧ rolW w (rorW w x y) y = x ∧
    rolW w x y = rolW w x (y % w) ∧
    rolW w (rolW w x y) z = rolW w x (y % w + z % w) ∧
    subW w (addW w x y) y = x ∧ addW w (subW w x y) y = x ∧
    xorW (xorW x y) y = x

/-- R107, R108: bit (n + s) mod w of ROL_w(x, y) is bit n of x, and bit n of ROR_w(x, y) is bit
(n + s) mod w of x, with s = y mod w; both are words of w bits, and s = 0 gives x. -/
def Obligations.RotationsMoveBits : Prop :=
  ∀ w x y : Nat, w ∈ [8, 16, 32, 64] → Word.fits w x → Word.fits w y →
    (∀ n, n < w → (rolW w x y).testBit ((n + y % w) % w) = x.testBit n) ∧
    (∀ n, n < w → (rorW w x y).testBit n = x.testBit ((n + y % w) % w)) ∧
    Word.fits w (rolW w x y) ∧ Word.fits w (rorW w x y) ∧
    (y % w = 0 → rolW w x y = x ∧ rorW w x y = x)

/-- R106: a wrapped sum used as a rotation amount gives the same rotation as the unwrapped sum. -/
def Obligations.WrappedSumRotatesAlike : Prop :=
  ∀ w x y z : Nat, w ∈ [8, 16, 32, 64] →
    rotAmount w (addW w y z) = (y + z) % w ∧ rolW w x (addW w y z) = rolW w x (y + z) ∧
    rorW w x (addW w y z) = rorW w x (y + z)

/-! ### The streams (44_command_interface.md) -/

/-- R204: in DRAIN an offered byte is discarded and counted, and the last of LEN bytes is answered with
the code in ST, whichever command it was; no other register changes. -/
def Obligations.DrainDiscardsAndAnswers : Prop :=
  ∀ (i : Instr) (n : Nat) (s : State) (cw : BitVec 32) (v st : Byte) (rest : List Byte),
    s.PHASE = .drain → s.RXCNT = some n → commandWord s = some cw → s.ST = some st →
    s.offered v rest →
    (n + 1 ≠ lenOf cw → exec i s = .next { s.received rest with RXCNT := some (n + 1) }) ∧
    (n + 1 = lenOf cw → exec i s =
      .next (respond st [] { s.received rest with RXCNT := some (n + 1) }))

/-- R206: in RESP a host that takes gets byte TXCNT of the frame, ST for 0 and DATA[TXCNT-1] after it;
TXCNT advances, and the last byte brings the core back to IDLE. -/
def Obligations.ResponseBytesAreTakenInOrder : Prop :=
  ∀ (i : Instr) (n m : Nat) (s : State) (v : Byte),
    s.PHASE = .resp → s.TXCNT = some n → s.RLEN = some m → hostTakes s = true →
    (n = 0 → s.ST = some v) → (∀ q, n = q + 1 → entry s.DATA q = some v) →
    exec i s =
      .next { s with
        TXCNT := some (n + 1)
        PHASE := if n = m then .idle else .resp
        host := { s.host with got := s.host.got ++ [v] } }

/-- R207: in KX_INIT, KX_MIX, EN_RUN, DE_RUN and RESP no command byte is taken, and one that is offered
is not lost. -/
def Obligations.NoCommandByteIsTakenWhileBusy : Prop :=
  ∀ s t : State, s.PHASE.busy → step s = .next t → t.host.cmd = s.host.cmd

/-- The model's reading of a wait (log 7: DEDUCED from "waiting for the host" of R236 and the delays of
R211): with no byte offered in IDLE, PAY and DRAIN, and none taken in RESP, the step leaves every
register as it is; only the host's listed move is used up (log 6). -/
def Obligations.WaitingChangesNoRegister : Prop :=
  ∀ (s : State) (i : Instr), s.running →
    (s.PHASE = .idle ∨ s.PHASE = .pay ∧ currentInstr s = some i ∨ s.PHASE = .drain) ∧
        (hostOffers s = false ∨ s.host.cmd = []) ∨
      s.PHASE = .resp ∧ hostTakes s = false →
    step s = .next (popMove s)

/-- R208: an internal step is always enabled, from every state that meets the invariant; it faults and
refuses nothing, it changes the core itself, and what it does to the core does not depend on the host.
The step uses up one listed move of the host (log 6: the model's choice). -/
def Obligations.InternalStepsNeedNoHost : Prop :=
  ∀ s : State, s.Inv → s.running → s.PHASE.internal →
    ∃ t : State, t.FAULT = none ∧ t.REFUSED = none ∧ { t with host := s.host } ≠ s ∧
      ∀ h : HostAgent, h.moves.head? ≠ some .reset →
        step { s with host := h } = .next { t with host := { h with moves := h.moves.tail } }

/-- R210, R236: a step that changes nothing is exactly a stuck state or a finished run whose host has
no more moves; no other unmarked state of a legal core stands still (the host's moves are the model's data, log 6).
That a wait is a step, which changes no register, is the model's reading (log 7). -/
def Obligations.StandingStillIsStuckOrFinished : Prop :=
  ∀ s : State, s.Inv → s.FAULT = none → s.REFUSED = none →
    (step s = .next s ↔ s.stuck ∨ s.finished ∧ s.host.moves = [])

/-! ### Frames and whole-machine rules -/

/-- R5: no step of any kind changes the configuration. -/
def Obligations.NoStepChangesTheConfiguration : Prop :=
  ∀ s t : State, step s = .next t → t.cfg = s.cfg

/-- R34, R73, R162: the schedule changes only by a reset, by the start of Init, or in KX_INIT and
KX_MIX; so no ENC, no DEC and no wrong-length command changes it. -/
def Obligations.OnlyKeyxAndResetWriteTheSchedule : Prop :=
  ∀ s t : State, step s = .next t → t.S ≠ s.S →
    s.host.moves.head? = some .reset ∨ s.PHASE = .kxInit ∨ s.PHASE = .kxMix ∨
      (s.PHASE = .idle ∨ s.PHASE = .pay) ∧ t.PHASE = .kxInit ∧ t.S = s.S.set 0 s.cfg.magicP

/-- R37: KEYED is cleared only by a reset and by the start of Init, and set only by the step that ends
a mix and responds OK. -/
def Obligations.KeyedHasTheseWritersOnly : Prop :=
  ∀ s t : State, step s = .next t → t.KEYED ≠ s.KEYED →
    t.KEYED = false ∧ (s.host.moves.head? = some .reset ∨
      (s.PHASE = .idle ∨ s.PHASE = .pay) ∧ t.PHASE = .kxInit) ∨
    t.KEYED = true ∧ s.PHASE = .kxMix ∧ t.PHASE = .resp ∧ t.ST = some 0x00#8

/-- The frame of KEYX, in each of its phases: a step changes no field but those written out, S at one
entry at most, the byte streams by one byte at most, and a wrong length leaves S and KEYED. -/
def Obligations.KeyxFrame : Prop :=
  ∀ (len : Nat) (s t : State), exec (.keyx len) s = .next t →
    (s.PHASE = .idle → t.PHASE ≠ .resp → t =
      { s with
        RXCNT := t.RXCNT, ST := t.ST, L := t.L, KEYED := t.KEYED, S := t.S, i := t.i
        PHASE := t.PHASE }) ∧
    (s.PHASE = .pay → t =
      { s with
        L := t.L, RXCNT := t.RXCNT, KEYED := t.KEYED, S := t.S, i := t.i, PHASE := t.PHASE
        FAULT := t.FAULT, host := { s.host with cmd := t.host.cmd } }) ∧
    (s.PHASE = .drain → t.PHASE ≠ .resp → t =
      { s with
        RXCNT := t.RXCNT, FAULT := t.FAULT, host := { s.host with cmd := t.host.cmd } }) ∧
    (s.PHASE = .kxInit → t =
      { s with
        S := t.S, i := t.i, A := t.A, B := t.B, j := t.j, k := t.k, PHASE := t.PHASE
        FAULT := t.FAULT }) ∧
    (s.PHASE = .kxMix → t.PHASE ≠ .resp → t =
      { s with
        S := t.S, L := t.L, A := t.A, B := t.B, i := t.i, j := t.j, k := t.k, FAULT := t.FAULT }) ∧
    (s.PHASE = .idle ∨ s.PHASE = .drain ∨ s.PHASE = .kxMix → t.PHASE = .resp → t =
      { s with
        RXCNT := t.RXCNT, S := t.S, KEYED := t.KEYED, ST := t.ST, RLEN := t.RLEN, TXCNT := t.TXCNT
        PHASE := t.PHASE, L := t.L, A := t.A, B := t.B, i := t.i, j := t.j, k := t.k, rnd := t.rnd
        host := { s.host with cmd := t.host.cmd } }) ∧
    (s.PHASE = .resp → t =
      { s with
        TXCNT := t.TXCNT, PHASE := t.PHASE, FAULT := t.FAULT
        host := { s.host with got := t.host.got } }) ∧
    (∀ n, entry t.S n ≠ entry s.S n →
      (s.PHASE = .idle ∨ s.PHASE = .pay) ∧ n = 0 ∨
        (s.PHASE ≠ .idle ∧ s.PHASE ≠ .pay) ∧ s.i = some n) ∧
    (s.PHASE = .idle → len ≠ s.cfg.b → t.S = s.S ∧ t.KEYED = s.KEYED) ∧
    (s.PHASE = .drain → t.S = s.S ∧ t.KEYED = s.KEYED) ∧
    (t.host.cmd = s.host.cmd ∨ (s.PHASE = .pay ∨ s.PHASE = .drain) ∧ t.host.cmd = s.host.cmd.tail) ∧
    (t.host.got = s.host.got ∨ s.PHASE = .resp ∧ ∃ v, t.host.got = s.host.got ++ [v]) ∧
    (t.FAULT = s.FAULT ∨ t.FAULT = some .noValue)

/-- R162 and the frame of ENC and DEC, in each of their phases: a step changes no field but those
written out; S and KEYED never, and the byte streams by one byte at most. -/
def Obligations.EncAndDecFrame : Prop :=
  ∀ (len : Nat) (i : Instr) (s t : State), i = .enc len ∨ i = .dec len →
    s.PHASE ≠ .kxInit → s.PHASE ≠ .kxMix → exec i s = .next t →
    (s.PHASE = .idle → t.PHASE ≠ .resp → t =
      { s with
        RXCNT := t.RXCNT, ST := t.ST, A := t.A, B := t.B, PHASE := t.PHASE, FAULT := t.FAULT }) ∧
    (s.PHASE = .pay → t.PHASE ≠ .resp → t =
      { s with
        A := t.A, B := t.B, RXCNT := t.RXCNT, rnd := t.rnd, PHASE := t.PHASE, FAULT := t.FAULT
        host := { s.host with cmd := t.host.cmd } }) ∧
    (s.PHASE = .drain → t.PHASE ≠ .resp → t =
      { s with
        RXCNT := t.RXCNT, FAULT := t.FAULT, host := { s.host with cmd := t.host.cmd } }) ∧
    (s.PHASE = .enRun ∨ s.PHASE = .deRun → t.PHASE ≠ .resp → t =
      { s with A := t.A, B := t.B, rnd := t.rnd, FAULT := t.FAULT }) ∧
    (s.PHASE ≠ .resp → t.PHASE = .resp → t =
      { s with
        RXCNT := t.RXCNT, ST := t.ST, DATA := t.DATA, RLEN := t.RLEN, TXCNT := t.TXCNT
        PHASE := t.PHASE, L := t.L, A := t.A, B := t.B, i := t.i, j := t.j, k := t.k, rnd := t.rnd
        host := { s.host with cmd := t.host.cmd } }) ∧
    (s.PHASE = .resp → t =
      { s with
        TXCNT := t.TXCNT, PHASE := t.PHASE, FAULT := t.FAULT
        host := { s.host with got := t.host.got } }) ∧
    t.S = s.S ∧ t.KEYED = s.KEYED ∧
    (t.host.cmd = s.host.cmd ∨ (s.PHASE = .pay ∨ s.PHASE = .drain) ∧ t.host.cmd = s.host.cmd.tail) ∧
    (t.host.got = s.host.got ∨ s.PHASE = .resp ∧ ∃ v, t.host.got = s.host.got ++ [v]) ∧
    (t.FAULT = s.FAULT ∨ t.FAULT = some .noValue ∨
      t.FAULT = some .unkeyed ∧ s.PHASE = .idle ∧ s.KEYED = false)

/-! ### Invariants -/

/-- Every step, a reset included, keeps the state invariant: array lengths, word ranges, the status
codes, what each phase's registers hold; and no step raises F_NOVALUE (R14, R234). -/
def Obligations.EveryStepKeepsTheInvariant : Prop :=
  ∀ s t : State, s.Inv → step s = .next t → t.Inv

/-- The reset state of every legal configuration meets the invariant. -/
def Obligations.ResetMeetsTheInvariant : Prop :=
  ∀ cfg : Config, cfg.legal = true → (State.resetFor cfg).Inv

/-- R46: every step keeps "whenever KEYED = 1, S = Expand(K)" for a key K of b bytes, with what a KEYX
in progress has built so far. -/
def Obligations.EveryStepKeepsTheScheduleInvariant : Prop :=
  ∀ s t : State, s.Inv → s.ScheduleInv → step s = .next t → t.ScheduleInv

/-- The reset state of every configuration meets the schedule invariant. -/
def Obligations.ResetMeetsTheScheduleInvariant : Prop :=
  ∀ cfg : Config, (State.resetFor cfg).ScheduleInv

/-! ### The step level agrees with the command level (R209) -/

/-- R209 and R120: from a command boundary, a KEYX frame of b key bytes runs in
4 + b + (t - 1) + N_mix + 1 steps to a boundary where S is Expand(K), the core is keyed, and the host
has got the one byte OK. -/
def Obligations.KeyxFrameExpandsTheKey : Prop :=
  ∀ (s : State) (K rest : List Byte), K.length = s.cfg.b →
    s.boundary (encode (.keyx s.cfg.b) ++ K ++ rest) →
    ∃ t, Host.Core.run core (4 + s.cfg.b + (s.cfg.t - 1) + s.cfg.nMix + 1) s = .next t ∧
      s.after t [0x00#8] rest ∧ t.KEYED = true ∧ expand s.cfg K = some t.S

/-- R209, R150, R156: from a command boundary of a keyed core, an ENC or DEC frame of one block runs in
4 + 2u + r + (1 + 2u) steps to a boundary with the same schedule, where the host has got OK and the
block that Encrypt or Decrypt gives. -/
def Obligations.BlockFrameGivesTheCipherBlock : Prop :=
  ∀ (s : State) (P rest : List Byte), P.length = s.cfg.blockBytes → s.KEYED = true →
    (s.boundary (encode (.enc s.cfg.blockBytes) ++ P ++ rest) →
      ∃ t block,
        Host.Core.run core (4 + s.cfg.blockBytes + s.cfg.r + (1 + s.cfg.blockBytes)) s = .next t ∧
        encrypt s.cfg s.S P = some block ∧ s.after t (0x00#8 :: block) rest ∧ t.S = s.S ∧
        t.KEYED = true) ∧
    (s.boundary (encode (.dec s.cfg.blockBytes) ++ P ++ rest) →
      ∃ t block,
        Host.Core.run core (4 + s.cfg.blockBytes + s.cfg.r + (1 + s.cfg.blockBytes)) s = .next t ∧
        decrypt s.cfg s.S P = some block ∧ s.after t (0x00#8 :: block) rest ∧ t.S = s.S ∧
        t.KEYED = true)

/-- R204, R209, R230 to R232: from a command boundary, keyed or not, a frame of wrong length runs in
4 + LEN + 1 steps to a boundary with S and KEYED as they were, where the host has got the one error
byte; the payload has been taken and discarded. -/
def Obligations.WrongLengthFrameIsAnsweredAndDrained : Prop :=
  ∀ (s : State) (i : Instr) (P rest : List Byte), i.wellFormed → P.length = i.len →
    (i = .keyx i.len → i.len ≠ s.cfg.b) → (i ≠ .keyx i.len → i.len ≠ s.cfg.blockBytes) →
    s.boundary (encode i ++ P ++ rest) →
    ∃ t, Host.Core.run core (4 + i.len + 1) s = .next t ∧
      s.after t [if i = .keyx i.len then 0x01#8 else 0x02#8] rest ∧ t.S = s.S ∧ t.KEYED = s.KEYED

/-- R209: from a command boundary, the steps of a command frame whose header is not reserved reach the
boundary that Exec of R200 gives, its S, KEYED and response bytes among it, after 4 + LEN steps for the
frame, the internal steps of R208 and one step for each response byte; or the fault F_UNKEYED, in the
fourth step, before any payload byte is taken. The step counts are R208's and R272's. -/
def Obligations.StepLevelAgreesWithCommandLevel : Prop :=
  ∀ (s : State) (i : Instr) (P rest : List Byte), i.wellFormed → P.length = i.len →
    s.boundary (encode i ++ P ++ rest) →
    match execCommand s.cfg s.S s.KEYED (encodeWord i) P with
    | .done S' KEYED' response => ∃ t,
        Host.Core.run core (4 + i.len + internalSteps s.cfg i + response.length) s = .next t ∧
        s.after t response rest ∧ t.S = S' ∧ t.KEYED = KEYED'
    | .fault r => r = .unkeyed ∧ ∃ t, Host.Core.run core 4 s = .next t ∧ t.FAULT = some r ∧
        t.host = { s.host with cmd := P ++ rest }
    | .refused _ => False

/-- R162: two keyed cores at a boundary with the same configuration and schedule, whatever else differs
in them, answer the same ENC frame, or the same DEC frame, with the same bytes. -/
def Obligations.CipherDependsOnScheduleAndBlockOnly : Prop :=
  ∀ (s s' t t' : State) (i : Instr) (P rest rest' : List Byte),
    i = .enc s.cfg.blockBytes ∨ i = .dec s.cfg.blockBytes → P.length = s.cfg.blockBytes →
    s'.cfg = s.cfg → s'.S = s.S → s.KEYED = true → s'.KEYED = true →
    s.boundary (encode i ++ P ++ rest) → s'.boundary (encode i ++ P ++ rest') →
    Host.Core.run core (4 + s.cfg.blockBytes + s.cfg.r + (1 + s.cfg.blockBytes)) s = .next t →
    Host.Core.run core (4 + s.cfg.blockBytes + s.cfg.r + (1 + s.cfg.blockBytes)) s' = .next t' →
    t.host.got.drop s.host.got.length = t'.host.got.drop s'.host.got.length

/-- R47: "The key bytes are not kept after KEYX": two runs of KEYX from one state with two keys end in
states that differ in S alone. -/
def Obligations.KeyLeavesNoTraceButTheSchedule : Prop :=
  ∀ (s t t' : State) (K K' rest : List Byte), K.length = s.cfg.b → K'.length = s.cfg.b →
    s.boundary (encode (.keyx s.cfg.b) ++ K ++ rest) →
    Host.Core.run core (4 + s.cfg.b + (s.cfg.t - 1) + s.cfg.nMix + 1) s = .next t →
    Host.Core.run core (4 + s.cfg.b + (s.cfg.t - 1) + s.cfg.nMix + 1)
      (s.received (encode (.keyx s.cfg.b) ++ K' ++ rest)) = .next t' →
    t' = { t with S := t'.S }
end

