-- ==== Sys2Proof/Laws/Operands.lean ====
section
/-! SUPPORT. Reading and writing array entries, and the range of a byte-lane write. -/

namespace Sys2Proof.Machine

theorem entry_eq_some {α : Type} {xs : List (Option α)} {n : Nat} {x : α} :
    entry xs n = some x ↔ xs[n]? = some (some x) := by
  simp [entry, Option.join_eq_some_iff]

/-- An entry that was written holds the value written. -/
theorem entry_set_self {α : Type} {xs : List (Option α)} {n : Nat} (o : Option α)
    (h : n < xs.length) : entry (xs.set n o) n = o := by
  simp [entry, h]

/-- A write leaves every other entry alone. -/
theorem entry_set_other {α : Type} {xs : List (Option α)} {m n : Nat} (o : Option α) (h : n ≠ m) :
    entry (xs.set n o) m = entry xs m := by
  simp [entry, h]

/-- Reading an array whose every entry holds a value gives a value. -/
theorem entry_of_valued {α : Type} {xs : List (Option α)} {n : Nat}
    (h : ∀ o ∈ xs, o.isSome = true) (hn : n < xs.length) : ∃ x, entry xs n = some x := by
  have := h _ (List.getElem_mem hn)
  obtain ⟨x, hx⟩ := Option.isSome_iff_exists.1 this
  exact ⟨x, by simp [entry, List.getElem?_eq_getElem hn, hx]⟩

/-- Every entry of a written array meets what the old entries and the new one meet. -/
theorem forall_mem_set {α : Type} {P : α → Prop} {xs : List α} {n : Nat} {a : α}
    (h : ∀ o ∈ xs, P o) (ha : P a) : ∀ o ∈ xs.set n a, P o := by
  intro o ho
  rcases List.mem_or_eq_of_mem_set ho with h' | h'
  · exact h _ h'
  · exact h' ▸ ha

theorem leEncode_length (u : Nat) (x : Word) : (leEncode u x).length = u := by
  simp [leEncode]

end Sys2Proof.Machine
end

