-- ==== Sys2Proof/Laws/State.lean ====
section
/-! SUPPORT. One lemma per field for each named update of the state, so that no proof unfolds an update. -/

namespace Sys2Proof.Machine

variable (s : State)

/-! ### popMove -/

@[simp] theorem popMove_cfg : (popMove s).cfg = s.cfg := rfl
@[simp] theorem popMove_S : (popMove s).S = s.S := rfl
@[simp] theorem popMove_KEYED : (popMove s).KEYED = s.KEYED := rfl
@[simp] theorem popMove_PHASE : (popMove s).PHASE = s.PHASE := rfl
@[simp] theorem popMove_HDRCNT : (popMove s).HDRCNT = s.HDRCNT := rfl
@[simp] theorem popMove_CW : (popMove s).CW = s.CW := rfl
@[simp] theorem popMove_RXCNT : (popMove s).RXCNT = s.RXCNT := rfl
@[simp] theorem popMove_ST : (popMove s).ST = s.ST := rfl
@[simp] theorem popMove_DATA : (popMove s).DATA = s.DATA := rfl
@[simp] theorem popMove_RLEN : (popMove s).RLEN = s.RLEN := rfl
@[simp] theorem popMove_TXCNT : (popMove s).TXCNT = s.TXCNT := rfl
@[simp] theorem popMove_L : (popMove s).L = s.L := rfl
@[simp] theorem popMove_A : (popMove s).A = s.A := rfl
@[simp] theorem popMove_B : (popMove s).B = s.B := rfl
@[simp] theorem popMove_i : (popMove s).i = s.i := rfl
@[simp] theorem popMove_j : (popMove s).j = s.j := rfl
@[simp] theorem popMove_k : (popMove s).k = s.k := rfl
@[simp] theorem popMove_rnd : (popMove s).rnd = s.rnd := rfl
@[simp] theorem popMove_FAULT : (popMove s).FAULT = s.FAULT := rfl
@[simp] theorem popMove_REFUSED : (popMove s).REFUSED = s.REFUSED := rfl
@[simp] theorem popMove_host : (popMove s).host = { s.host with moves := s.host.moves.tail } := rfl

/-! ### takeCommandByte -/

@[simp] theorem takeCommandByte_cfg : (takeCommandByte s).cfg = s.cfg := rfl
@[simp] theorem takeCommandByte_S : (takeCommandByte s).S = s.S := rfl
@[simp] theorem takeCommandByte_KEYED : (takeCommandByte s).KEYED = s.KEYED := rfl
@[simp] theorem takeCommandByte_PHASE : (takeCommandByte s).PHASE = s.PHASE := rfl
@[simp] theorem takeCommandByte_HDRCNT : (takeCommandByte s).HDRCNT = s.HDRCNT := rfl
@[simp] theorem takeCommandByte_CW : (takeCommandByte s).CW = s.CW := rfl
@[simp] theorem takeCommandByte_RXCNT : (takeCommandByte s).RXCNT = s.RXCNT := rfl
@[simp] theorem takeCommandByte_ST : (takeCommandByte s).ST = s.ST := rfl
@[simp] theorem takeCommandByte_DATA : (takeCommandByte s).DATA = s.DATA := rfl
@[simp] theorem takeCommandByte_RLEN : (takeCommandByte s).RLEN = s.RLEN := rfl
@[simp] theorem takeCommandByte_TXCNT : (takeCommandByte s).TXCNT = s.TXCNT := rfl
@[simp] theorem takeCommandByte_L : (takeCommandByte s).L = s.L := rfl
@[simp] theorem takeCommandByte_A : (takeCommandByte s).A = s.A := rfl
@[simp] theorem takeCommandByte_B : (takeCommandByte s).B = s.B := rfl
@[simp] theorem takeCommandByte_i : (takeCommandByte s).i = s.i := rfl
@[simp] theorem takeCommandByte_j : (takeCommandByte s).j = s.j := rfl
@[simp] theorem takeCommandByte_k : (takeCommandByte s).k = s.k := rfl
@[simp] theorem takeCommandByte_rnd : (takeCommandByte s).rnd = s.rnd := rfl
@[simp] theorem takeCommandByte_FAULT : (takeCommandByte s).FAULT = s.FAULT := rfl
@[simp] theorem takeCommandByte_REFUSED : (takeCommandByte s).REFUSED = s.REFUSED := rfl
@[simp] theorem takeCommandByte_host : (takeCommandByte s).host =
    { s.host with cmd := s.host.cmd.tail } := rfl

/-! ### sendByte -/

@[simp] theorem sendByte_cfg (v : Byte) : (sendByte v s).cfg = s.cfg := rfl
@[simp] theorem sendByte_S (v : Byte) : (sendByte v s).S = s.S := rfl
@[simp] theorem sendByte_KEYED (v : Byte) : (sendByte v s).KEYED = s.KEYED := rfl
@[simp] theorem sendByte_PHASE (v : Byte) : (sendByte v s).PHASE = s.PHASE := rfl
@[simp] theorem sendByte_HDRCNT (v : Byte) : (sendByte v s).HDRCNT = s.HDRCNT := rfl
@[simp] theorem sendByte_CW (v : Byte) : (sendByte v s).CW = s.CW := rfl
@[simp] theorem sendByte_RXCNT (v : Byte) : (sendByte v s).RXCNT = s.RXCNT := rfl
@[simp] theorem sendByte_ST (v : Byte) : (sendByte v s).ST = s.ST := rfl
@[simp] theorem sendByte_DATA (v : Byte) : (sendByte v s).DATA = s.DATA := rfl
@[simp] theorem sendByte_RLEN (v : Byte) : (sendByte v s).RLEN = s.RLEN := rfl
@[simp] theorem sendByte_TXCNT (v : Byte) : (sendByte v s).TXCNT = s.TXCNT := rfl
@[simp] theorem sendByte_L (v : Byte) : (sendByte v s).L = s.L := rfl
@[simp] theorem sendByte_A (v : Byte) : (sendByte v s).A = s.A := rfl
@[simp] theorem sendByte_B (v : Byte) : (sendByte v s).B = s.B := rfl
@[simp] theorem sendByte_i (v : Byte) : (sendByte v s).i = s.i := rfl
@[simp] theorem sendByte_j (v : Byte) : (sendByte v s).j = s.j := rfl
@[simp] theorem sendByte_k (v : Byte) : (sendByte v s).k = s.k := rfl
@[simp] theorem sendByte_rnd (v : Byte) : (sendByte v s).rnd = s.rnd := rfl
@[simp] theorem sendByte_FAULT (v : Byte) : (sendByte v s).FAULT = s.FAULT := rfl
@[simp] theorem sendByte_REFUSED (v : Byte) : (sendByte v s).REFUSED = s.REFUSED := rfl
@[simp] theorem sendByte_host (v : Byte) : (sendByte v s).host =
    { s.host with got := s.host.got ++ [v] } := rfl

/-! ### discardWorking -/

@[simp] theorem discardWorking_cfg : (discardWorking s).cfg = s.cfg := rfl
@[simp] theorem discardWorking_S : (discardWorking s).S = s.S := rfl
@[simp] theorem discardWorking_KEYED : (discardWorking s).KEYED = s.KEYED := rfl
@[simp] theorem discardWorking_PHASE : (discardWorking s).PHASE = s.PHASE := rfl
@[simp] theorem discardWorking_HDRCNT : (discardWorking s).HDRCNT = s.HDRCNT := rfl
@[simp] theorem discardWorking_CW : (discardWorking s).CW = s.CW := rfl
@[simp] theorem discardWorking_RXCNT : (discardWorking s).RXCNT = s.RXCNT := rfl
@[simp] theorem discardWorking_ST : (discardWorking s).ST = s.ST := rfl
@[simp] theorem discardWorking_DATA : (discardWorking s).DATA = s.DATA := rfl
@[simp] theorem discardWorking_RLEN : (discardWorking s).RLEN = s.RLEN := rfl
@[simp] theorem discardWorking_TXCNT : (discardWorking s).TXCNT = s.TXCNT := rfl
@[simp] theorem discardWorking_L : (discardWorking s).L = List.replicate s.cfg.c none := rfl
@[simp] theorem discardWorking_A : (discardWorking s).A = none := rfl
@[simp] theorem discardWorking_B : (discardWorking s).B = none := rfl
@[simp] theorem discardWorking_i : (discardWorking s).i = none := rfl
@[simp] theorem discardWorking_j : (discardWorking s).j = none := rfl
@[simp] theorem discardWorking_k : (discardWorking s).k = none := rfl
@[simp] theorem discardWorking_rnd : (discardWorking s).rnd = none := rfl
@[simp] theorem discardWorking_FAULT : (discardWorking s).FAULT = s.FAULT := rfl
@[simp] theorem discardWorking_REFUSED : (discardWorking s).REFUSED = s.REFUSED := rfl
@[simp] theorem discardWorking_host : (discardWorking s).host = s.host := rfl

/-! ### respond -/

@[simp] theorem respond_cfg (st : Byte) (data : List Byte) : (respond st data s).cfg = s.cfg := rfl
@[simp] theorem respond_S (st : Byte) (data : List Byte) : (respond st data s).S = s.S := rfl
@[simp] theorem respond_KEYED (st : Byte) (data : List Byte) : (respond st data s).KEYED =
    s.KEYED := rfl
@[simp] theorem respond_PHASE (st : Byte) (data : List Byte) : (respond st data s).PHASE =
    .resp := rfl
@[simp] theorem respond_HDRCNT (st : Byte) (data : List Byte) : (respond st data s).HDRCNT =
    s.HDRCNT := rfl
@[simp] theorem respond_CW (st : Byte) (data : List Byte) : (respond st data s).CW = s.CW := rfl
@[simp] theorem respond_RXCNT (st : Byte) (data : List Byte) : (respond st data s).RXCNT =
    s.RXCNT := rfl
@[simp] theorem respond_ST (st : Byte) (data : List Byte) : (respond st data s).ST = some st := rfl
@[simp] theorem respond_DATA (st : Byte) (data : List Byte) : (respond st data s).DATA =
    data.map some ++ s.DATA.drop data.length := rfl
@[simp] theorem respond_RLEN (st : Byte) (data : List Byte) : (respond st data s).RLEN =
    some data.length := rfl
@[simp] theorem respond_TXCNT (st : Byte) (data : List Byte) : (respond st data s).TXCNT =
    some 0 := rfl
@[simp] theorem respond_L (st : Byte) (data : List Byte) : (respond st data s).L =
    List.replicate s.cfg.c none := rfl
@[simp] theorem respond_A (st : Byte) (data : List Byte) : (respond st data s).A = none := rfl
@[simp] theorem respond_B (st : Byte) (data : List Byte) : (respond st data s).B = none := rfl
@[simp] theorem respond_i (st : Byte) (data : List Byte) : (respond st data s).i = none := rfl
@[simp] theorem respond_j (st : Byte) (data : List Byte) : (respond st data s).j = none := rfl
@[simp] theorem respond_k (st : Byte) (data : List Byte) : (respond st data s).k = none := rfl
@[simp] theorem respond_rnd (st : Byte) (data : List Byte) : (respond st data s).rnd = none := rfl
@[simp] theorem respond_FAULT (st : Byte) (data : List Byte) : (respond st data s).FAULT =
    s.FAULT := rfl
@[simp] theorem respond_REFUSED (st : Byte) (data : List Byte) : (respond st data s).REFUSED =
    s.REFUSED := rfl
@[simp] theorem respond_host (st : Byte) (data : List Byte) : (respond st data s).host =
    s.host := rfl

/-! ### finishBlock -/

@[simp] theorem finishBlock_cfg (ab : Word × Word) : (finishBlock s ab).cfg = s.cfg := rfl
@[simp] theorem finishBlock_S (ab : Word × Word) : (finishBlock s ab).S = s.S := rfl
@[simp] theorem finishBlock_KEYED (ab : Word × Word) : (finishBlock s ab).KEYED = s.KEYED := rfl
@[simp] theorem finishBlock_PHASE (ab : Word × Word) : (finishBlock s ab).PHASE = .resp := rfl
@[simp] theorem finishBlock_HDRCNT (ab : Word × Word) : (finishBlock s ab).HDRCNT = s.HDRCNT := rfl
@[simp] theorem finishBlock_CW (ab : Word × Word) : (finishBlock s ab).CW = s.CW := rfl
@[simp] theorem finishBlock_RXCNT (ab : Word × Word) : (finishBlock s ab).RXCNT = s.RXCNT := rfl
@[simp] theorem finishBlock_ST (ab : Word × Word) : (finishBlock s ab).ST = some stOK := rfl
@[simp] theorem finishBlock_DATA (ab : Word × Word) : (finishBlock s ab).DATA =
    (wordsToBlock s.cfg.u ab.1 ab.2).map some ++ s.DATA.drop (wordsToBlock s.cfg.u ab.1 ab.2).length := rfl
@[simp] theorem finishBlock_RLEN (ab : Word × Word) : (finishBlock s ab).RLEN =
    some (wordsToBlock s.cfg.u ab.1 ab.2).length := rfl
@[simp] theorem finishBlock_TXCNT (ab : Word × Word) : (finishBlock s ab).TXCNT = some 0 := rfl
@[simp] theorem finishBlock_L (ab : Word × Word) : (finishBlock s ab).L =
    List.replicate s.cfg.c none := rfl
@[simp] theorem finishBlock_A (ab : Word × Word) : (finishBlock s ab).A = none := rfl
@[simp] theorem finishBlock_B (ab : Word × Word) : (finishBlock s ab).B = none := rfl
@[simp] theorem finishBlock_i (ab : Word × Word) : (finishBlock s ab).i = none := rfl
@[simp] theorem finishBlock_j (ab : Word × Word) : (finishBlock s ab).j = none := rfl
@[simp] theorem finishBlock_k (ab : Word × Word) : (finishBlock s ab).k = none := rfl
@[simp] theorem finishBlock_rnd (ab : Word × Word) : (finishBlock s ab).rnd = none := rfl
@[simp] theorem finishBlock_FAULT (ab : Word × Word) : (finishBlock s ab).FAULT = s.FAULT := rfl
@[simp] theorem finishBlock_REFUSED (ab : Word × Word) : (finishBlock s ab).REFUSED =
    s.REFUSED := rfl
@[simp] theorem finishBlock_host (ab : Word × Word) : (finishBlock s ab).host = s.host := rfl

/-! ### clearKeyed -/

@[simp] theorem clearKeyed_cfg : (clearKeyed s).cfg = s.cfg := rfl
@[simp] theorem clearKeyed_S : (clearKeyed s).S = s.S := rfl
@[simp] theorem clearKeyed_KEYED : (clearKeyed s).KEYED = false := rfl
@[simp] theorem clearKeyed_PHASE : (clearKeyed s).PHASE = s.PHASE := rfl
@[simp] theorem clearKeyed_HDRCNT : (clearKeyed s).HDRCNT = s.HDRCNT := rfl
@[simp] theorem clearKeyed_CW : (clearKeyed s).CW = s.CW := rfl
@[simp] theorem clearKeyed_RXCNT : (clearKeyed s).RXCNT = s.RXCNT := rfl
@[simp] theorem clearKeyed_ST : (clearKeyed s).ST = s.ST := rfl
@[simp] theorem clearKeyed_DATA : (clearKeyed s).DATA = s.DATA := rfl
@[simp] theorem clearKeyed_RLEN : (clearKeyed s).RLEN = s.RLEN := rfl
@[simp] theorem clearKeyed_TXCNT : (clearKeyed s).TXCNT = s.TXCNT := rfl
@[simp] theorem clearKeyed_L : (clearKeyed s).L = s.L := rfl
@[simp] theorem clearKeyed_A : (clearKeyed s).A = s.A := rfl
@[simp] theorem clearKeyed_B : (clearKeyed s).B = s.B := rfl
@[simp] theorem clearKeyed_i : (clearKeyed s).i = s.i := rfl
@[simp] theorem clearKeyed_j : (clearKeyed s).j = s.j := rfl
@[simp] theorem clearKeyed_k : (clearKeyed s).k = s.k := rfl
@[simp] theorem clearKeyed_rnd : (clearKeyed s).rnd = s.rnd := rfl
@[simp] theorem clearKeyed_FAULT : (clearKeyed s).FAULT = s.FAULT := rfl
@[simp] theorem clearKeyed_REFUSED : (clearKeyed s).REFUSED = s.REFUSED := rfl
@[simp] theorem clearKeyed_host : (clearKeyed s).host = s.host := rfl

/-! ### setKeyed -/

@[simp] theorem setKeyed_cfg : (setKeyed s).cfg = s.cfg := rfl
@[simp] theorem setKeyed_S : (setKeyed s).S = s.S := rfl
@[simp] theorem setKeyed_KEYED : (setKeyed s).KEYED = true := rfl
@[simp] theorem setKeyed_PHASE : (setKeyed s).PHASE = s.PHASE := rfl
@[simp] theorem setKeyed_HDRCNT : (setKeyed s).HDRCNT = s.HDRCNT := rfl
@[simp] theorem setKeyed_CW : (setKeyed s).CW = s.CW := rfl
@[simp] theorem setKeyed_RXCNT : (setKeyed s).RXCNT = s.RXCNT := rfl
@[simp] theorem setKeyed_ST : (setKeyed s).ST = s.ST := rfl
@[simp] theorem setKeyed_DATA : (setKeyed s).DATA = s.DATA := rfl
@[simp] theorem setKeyed_RLEN : (setKeyed s).RLEN = s.RLEN := rfl
@[simp] theorem setKeyed_TXCNT : (setKeyed s).TXCNT = s.TXCNT := rfl
@[simp] theorem setKeyed_L : (setKeyed s).L = s.L := rfl
@[simp] theorem setKeyed_A : (setKeyed s).A = s.A := rfl
@[simp] theorem setKeyed_B : (setKeyed s).B = s.B := rfl
@[simp] theorem setKeyed_i : (setKeyed s).i = s.i := rfl
@[simp] theorem setKeyed_j : (setKeyed s).j = s.j := rfl
@[simp] theorem setKeyed_k : (setKeyed s).k = s.k := rfl
@[simp] theorem setKeyed_rnd : (setKeyed s).rnd = s.rnd := rfl
@[simp] theorem setKeyed_FAULT : (setKeyed s).FAULT = s.FAULT := rfl
@[simp] theorem setKeyed_REFUSED : (setKeyed s).REFUSED = s.REFUSED := rfl
@[simp] theorem setKeyed_host : (setKeyed s).host = s.host := rfl

/-! ### startInit -/

@[simp] theorem startInit_cfg : (startInit s).cfg = s.cfg := rfl
@[simp] theorem startInit_S : (startInit s).S = s.S.set 0 s.cfg.magicP := rfl
@[simp] theorem startInit_KEYED : (startInit s).KEYED = false := rfl
@[simp] theorem startInit_PHASE : (startInit s).PHASE = .kxInit := rfl
@[simp] theorem startInit_HDRCNT : (startInit s).HDRCNT = s.HDRCNT := rfl
@[simp] theorem startInit_CW : (startInit s).CW = s.CW := rfl
@[simp] theorem startInit_RXCNT : (startInit s).RXCNT = s.RXCNT := rfl
@[simp] theorem startInit_ST : (startInit s).ST = s.ST := rfl
@[simp] theorem startInit_DATA : (startInit s).DATA = s.DATA := rfl
@[simp] theorem startInit_RLEN : (startInit s).RLEN = s.RLEN := rfl
@[simp] theorem startInit_TXCNT : (startInit s).TXCNT = s.TXCNT := rfl
@[simp] theorem startInit_L : (startInit s).L = s.L := rfl
@[simp] theorem startInit_A : (startInit s).A = s.A := rfl
@[simp] theorem startInit_B : (startInit s).B = s.B := rfl
@[simp] theorem startInit_i : (startInit s).i = some 1 := rfl
@[simp] theorem startInit_j : (startInit s).j = s.j := rfl
@[simp] theorem startInit_k : (startInit s).k = s.k := rfl
@[simp] theorem startInit_rnd : (startInit s).rnd = s.rnd := rfl
@[simp] theorem startInit_FAULT : (startInit s).FAULT = s.FAULT := rfl
@[simp] theorem startInit_REFUSED : (startInit s).REFUSED = s.REFUSED := rfl
@[simp] theorem startInit_host : (startInit s).host = s.host := rfl

/-! ### resetEvent -/

@[simp] theorem resetEvent_cfg : (resetEvent s).cfg = s.cfg := rfl
@[simp] theorem resetEvent_S : (resetEvent s).S = List.replicate s.cfg.t none := rfl
@[simp] theorem resetEvent_KEYED : (resetEvent s).KEYED = false := rfl
@[simp] theorem resetEvent_PHASE : (resetEvent s).PHASE = .idle := rfl
@[simp] theorem resetEvent_HDRCNT : (resetEvent s).HDRCNT = 0 := rfl
@[simp] theorem resetEvent_CW : (resetEvent s).CW = List.replicate 4 none := rfl
@[simp] theorem resetEvent_RXCNT : (resetEvent s).RXCNT = none := rfl
@[simp] theorem resetEvent_ST : (resetEvent s).ST = none := rfl
@[simp] theorem resetEvent_DATA : (resetEvent s).DATA = List.replicate s.cfg.blockBytes none := rfl
@[simp] theorem resetEvent_RLEN : (resetEvent s).RLEN = none := rfl
@[simp] theorem resetEvent_TXCNT : (resetEvent s).TXCNT = none := rfl
@[simp] theorem resetEvent_L : (resetEvent s).L = List.replicate s.cfg.c none := rfl
@[simp] theorem resetEvent_A : (resetEvent s).A = none := rfl
@[simp] theorem resetEvent_B : (resetEvent s).B = none := rfl
@[simp] theorem resetEvent_i : (resetEvent s).i = none := rfl
@[simp] theorem resetEvent_j : (resetEvent s).j = none := rfl
@[simp] theorem resetEvent_k : (resetEvent s).k = none := rfl
@[simp] theorem resetEvent_rnd : (resetEvent s).rnd = none := rfl
@[simp] theorem resetEvent_FAULT : (resetEvent s).FAULT = s.FAULT := rfl
@[simp] theorem resetEvent_REFUSED : (resetEvent s).REFUSED = s.REFUSED := rfl
@[simp] theorem resetEvent_host : (resetEvent s).host = s.host := rfl

end Sys2Proof.Machine
end

