-- ==== Sys2Proof/Laws/Ops.lean ====
section
/-! SUPPORT. For each shared operation, once, what it can answer; provers cite these and do not unfold
the operation. -/

namespace Sys2Proof.Machine

variable {s t : State}

@[simp] theorem onNext_next (f : State → State) : onNext f (.next s) = .next (f s) := rfl
@[simp] theorem onNext_fault (f : State → State) (r : Fault) : onNext f (.fault r) = .fault r := rfl
@[simp] theorem onNext_refused (f : State → State) (r : Refusal) :
    onNext f (.refused r) = .refused r := rfl

/-- onNext answers a next state exactly when its outcome does. -/
theorem onNext_eq_next {f : State → State} {o : Outcome} :
    onNext f o = .next t ↔ ∃ u, o = .next u ∧ f u = t := by
  cases o <;> simp

@[simp] theorem orNoValue_some : orNoValue s (some t) = .next t := rfl
@[simp] theorem orNoValue_none : orNoValue s none = .next { s with FAULT := some .noValue } := rfl

/-- A step over values answers the state computed, or raises F_NOVALUE and changes nothing else. -/
theorem orNoValue_eq_next {o : Option State} :
    orNoValue s o = .next t ↔ o = some t ∨ o = none ∧ t = { s with FAULT := some .noValue } := by
  cases o <;> simp [eq_comm]

/-- Receiving waits, or takes the offered byte and goes on. -/
theorem recvByte_cases (f : Byte → State → Outcome) (s : State) :
    (recvByte f s = .next s ∧ (s.host.cmd = [] ∨ hostOffers s = false)) ∨
      ∃ v rest, s.host.cmd = v :: rest ∧ hostOffers s = true ∧
        recvByte f s = f v { s with host := { s.host with cmd := rest } } := by
  unfold recvByte takeCommandByte
  split
  · exact .inl ⟨rfl, .inl ‹_›⟩
  · rename_i v rest h
    split
    · exact .inr ⟨v, rest, h, ‹_›, by simp [h]⟩
    · exact .inl ⟨rfl, .inr (Bool.eq_false_of_not_eq_true ‹_›)⟩

/-- Receiving an offered byte. -/
theorem recvByte_offered {f : Byte → State → Outcome} {v : Byte} {rest : List Byte}
    (ho : hostOffers s = true) (hc : s.host.cmd = v :: rest) :
    recvByte f s = f v { s with host := { s.host with cmd := rest } } := by
  simp [recvByte, takeCommandByte, ho, hc]

/-- Receiving with nothing offered waits. -/
theorem recvByte_wait {f : Byte → State → Outcome} (h : hostOffers s = false ∨ s.host.cmd = []) :
    recvByte f s = .next s := by
  unfold recvByte
  rcases h with h | h <;> simp [h]
  split <;> rfl

/-- The two cases of the error response: answered at once, or drained first. -/
theorem lengthError_cases (st : Byte) (len : Nat) (s : State) :
    (len = 0 ∧ lengthError st len s = respond st [] s) ∨
      (len ≠ 0 ∧ lengthError st len s = { s with ST := some st, PHASE := .drain }) := by
  by_cases h : len = 0 <;> simp [lengthError, h, respond, discardWorking]

/-- A drained byte is counted, or it is the last one and the response is loaded, or a register it
reads holds no value. -/
theorem drainByte_cases {v : Byte} (h : drainByte v s = .next t) :
    (∃ n cw, s.RXCNT = some n ∧ commandWord s = some cw ∧
      (n + 1 ≠ lenOf cw ∧ t = { s with RXCNT := some (n + 1) } ∨
        n + 1 = lenOf cw ∧ ∃ st, s.ST = some st ∧
          t = respond st [] { s with RXCNT := some (n + 1) })) ∨
      t = { s with FAULT := some .noValue } := by
  rcases orNoValue_eq_next.1 h with h | ⟨-, h⟩
  · simp only [Option.bind_eq_bind, Option.bind_eq_some_iff] at h
    obtain ⟨n, hn, cw, hcw, h⟩ := h
    refine .inl ⟨n, cw, hn, hcw, ?_⟩
    split at h
    · obtain ⟨st, hst, h⟩ := Option.bind_eq_some_iff.1 h
      exact .inr ⟨‹_›, st, hst, (Option.some.inj h).symm⟩
    · exact .inl ⟨‹_›, (Option.some.inj h).symm⟩
  · exact .inr h

/-- A response step waits, sends the byte at TXCNT, or finds a register it reads without a value. -/
theorem respStep_cases (h : respStep s = .next t) :
    (hostTakes s = false ∧ t = s) ∨
      (∃ n v len, s.TXCNT = some n ∧ responseByte s n = some v ∧ s.RLEN = some len ∧
        hostTakes s = true ∧
        t = sendByte v
          { s with TXCNT := some (n + 1), PHASE := if n + 1 = len + 1 then .idle else .resp }) ∨
      t = { s with FAULT := some .noValue } := by
  unfold respStep at h
  split at h
  · rcases orNoValue_eq_next.1 h with h | ⟨-, h⟩
    · simp only [Option.bind_eq_bind, Option.bind_eq_some_iff] at h
      obtain ⟨n, hn, v, hv, len, hl, h⟩ := h
      exact .inr (.inl ⟨n, v, len, hn, hv, hl, ‹_›, (Option.some.inj h).symm⟩)
    · exact .inr (.inr h)
  · exact .inl ⟨Bool.eq_false_of_not_eq_true ‹_›, by simpa using h.symm⟩

end Sys2Proof.Machine
end

