-- ==== Sys2Proof/Laws/Commands.lean ====
section
/-! SUPPORT. What each step of KEYX, ENC and DEC can answer, once. -/

namespace Sys2Proof.Machine

variable {s t : State}

/-! ### KEYX -/

/-- The header decode of a KEYX: a wrong length, a key to come, or Init at once. -/
theorem keyxHeader_cases {len : Nat} (h : keyxHeader len s = .next t) :
    (len ≠ s.cfg.b ∧ t = lengthError stInvalidKeyLength len { s with RXCNT := some 0 }) ∨
      (len = s.cfg.b ∧ s.cfg.b ≠ 0 ∧
        t = { s with RXCNT := some 0, L := List.replicate s.cfg.c (some 0), PHASE := .pay }) ∨
      (len = s.cfg.b ∧ s.cfg.b = 0 ∧
        t = startInit { s with RXCNT := some 0, L := List.replicate s.cfg.c (some 0) }) := by
  unfold keyxHeader at h
  dsimp only at h
  split at h
  · exact .inl ⟨‹_›, by simpa using h.symm⟩
  · split at h
    · exact .inr (.inr ⟨not_not.1 ‹_›, ‹_›, by simpa using h.symm⟩)
    · exact .inr (.inl ⟨not_not.1 ‹_›, ‹_›, by simpa using h.symm⟩)

/-- A key byte is placed and counted; the last one starts Init. -/
theorem keyxByte_cases {len : Nat} {v : Byte} (h : keyxByte len v s = .next t) :
    (∃ n L, s.RXCNT = some n ∧ placeKeyByte s.cfg.u s.L n v = some L ∧
      (n + 1 ≠ len ∧ t = { s with L := L, RXCNT := some (n + 1) } ∨
        n + 1 = len ∧ t = startInit { s with L := L, RXCNT := some (n + 1) })) ∨
      t = { s with FAULT := some .noValue } := by
  rcases orNoValue_eq_next.1 h with h | ⟨-, h⟩
  · simp only [Option.bind_eq_bind, Option.bind_eq_some_iff] at h
    obtain ⟨n, hn, L, hL, h⟩ := h
    refine .inl ⟨n, L, hn, hL, ?_⟩
    have h := (Option.some.inj h).symm
    split at h
    · exact .inr ⟨‹_›, h⟩
    · exact .inl ⟨‹_›, h⟩
  · exact .inr h

/-- An Init step writes S[i]; the last one sets up the mix. -/
theorem kxInitStep_cases (h : kxInitStep s = .next t) :
    (∃ n S, s.i = some n ∧ initIteration s.cfg n s.S = some S ∧
      (n + 1 ≠ s.cfg.t ∧ t = { s with S := S, i := some (n + 1) } ∨
        n + 1 = s.cfg.t ∧ t =
          { s with
            S := S, A := some 0, B := some 0, i := some 0, j := some 0, k := some 0
            PHASE := .kxMix })) ∨
      t = { s with FAULT := some .noValue } := by
  rcases orNoValue_eq_next.1 h with h | ⟨-, h⟩
  · simp only [Option.bind_eq_bind, Option.bind_eq_some_iff] at h
    obtain ⟨n, hn, S, hS, h⟩ := h
    refine .inl ⟨n, S, hn, hS, ?_⟩
    have h := (Option.some.inj h).symm
    split at h
    · exact .inr ⟨‹_›, h⟩
    · exact .inl ⟨‹_›, h⟩
  · exact .inr h

/-- A mix step does one iteration; the last one commits and responds. -/
theorem kxMixStep_cases (h : kxMixStep s = .next t) :
    (∃ a b i j k m, s.A = some a ∧ s.B = some b ∧ s.i = some i ∧ s.j = some j ∧ s.k = some k ∧
      mixIteration s.cfg { S := s.S, L := s.L, A := a, B := b, i := i, j := j } = some m ∧
      (k + 1 ≠ s.cfg.nMix ∧ t =
          { s with
            S := m.S, L := m.L, A := some m.A, B := some m.B, i := some m.i, j := some m.j
            k := some (k + 1) } ∨
        k + 1 = s.cfg.nMix ∧ t = respond stOK [] (setKeyed { s with S := m.S }))) ∨
      t = { s with FAULT := some .noValue } := by
  rcases orNoValue_eq_next.1 h with h | ⟨-, h⟩
  · simp only [Option.bind_eq_bind, Option.bind_eq_some_iff] at h
    obtain ⟨a, ha, b, hb, i, hi, j, hj, k, hk, m, hm, h⟩ := h
    refine .inl ⟨a, b, i, j, k, m, ha, hb, hi, hj, hk, hm, ?_⟩
    have h := (Option.some.inj h).symm
    split at h
    · exact .inr ⟨‹_›, h.trans (by simp [respond, discardWorking, setKeyed])⟩
    · exact .inl ⟨‹_›, h⟩
  · exact .inr h

/-! ### ENC and DEC -/

/-- The header decode of an ENC or DEC: a wrong length, an unkeyed core, or a block to come. -/
theorem blockHeader_cases {len : Nat} (h : blockHeader len s = .next t) :
    (len ≠ s.cfg.blockBytes ∧ t = lengthError stInvalidBlockLength len { s with RXCNT := some 0 }) ∨
      (len = s.cfg.blockBytes ∧ s.KEYED = false ∧
        t = { s with RXCNT := some 0, FAULT := some .unkeyed }) ∨
      (len = s.cfg.blockBytes ∧ s.KEYED = true ∧
        t = { s with RXCNT := some 0, A := some 0, B := some 0, PHASE := .pay }) := by
  unfold blockHeader at h
  dsimp only at h
  split at h
  · exact .inl ⟨‹_›, by simpa using h.symm⟩
  · split at h
    · exact .inr (.inl ⟨not_not.1 ‹_›, ‹_›, by simpa [raiseFault] using h.symm⟩)
    · exact .inr (.inr ⟨not_not.1 ‹_›, Bool.eq_true_of_not_eq_false ‹_›, by simpa using h.symm⟩)

/-- A block byte is placed and counted; the last one is followed by `entered` in the same step. -/
theorem blockByte_cases {entered : State → Word × Word → Option State} {len : Nat} {v : Byte}
    (h : blockByte entered len v s = .next t) :
    (∃ n a b, s.RXCNT = some n ∧ s.A = some a ∧ s.B = some b ∧
      let ab := placeBlockByte s.cfg.u (a, b) n v
      let u := { s with A := some ab.1, B := some ab.2, RXCNT := some (n + 1) }
      (n + 1 ≠ len ∧ t = u ∨ n + 1 = len ∧ entered u ab = some t)) ∨
      t = { s with FAULT := some .noValue } := by
  rcases orNoValue_eq_next.1 h with h | ⟨-, h⟩
  · simp only [Option.bind_eq_bind, Option.bind_eq_some_iff] at h
    obtain ⟨n, hn, a, ha, b, hb, h⟩ := h
    refine .inl ⟨n, a, b, hn, ha, hb, ?_⟩
    split at h
    · exact .inr ⟨‹_›, h⟩
    · exact .inl ⟨‹_›, (Option.some.inj h).symm⟩
  · exact .inr h

/-- The pre-whitening goes on to the rounds, or finishes when there are none. -/
theorem encEntry_cases {ab : Word × Word} (h : encEntry s ab = some t) :
    ∃ ab', preWhiten s.cfg s.S ab = some ab' ∧
      (s.cfg.r = 0 ∧ t = finishBlock s ab' ∨
        s.cfg.r ≠ 0 ∧ t =
          { s with A := some ab'.1, B := some ab'.2, rnd := some 1, PHASE := .enRun }) := by
  simp only [encEntry, Option.bind_eq_bind, Option.bind_eq_some_iff] at h
  obtain ⟨ab', hab, h⟩ := h
  refine ⟨ab', hab, ?_⟩
  have h := (Option.some.inj h).symm
  split at h
  · exact .inl ⟨‹_›, h.trans (by simp [finishBlock, respond, discardWorking])⟩
  · exact .inr ⟨‹_›, h⟩

/-- An ENC round goes on, or finishes after round r. -/
theorem enRunStep_cases (h : enRunStep s = .next t) :
    (∃ a b n ab, s.A = some a ∧ s.B = some b ∧ s.rnd = some n ∧
      encRound s.cfg s.S n (a, b) = some ab ∧
      (n ≠ s.cfg.r ∧ t = { s with A := some ab.1, B := some ab.2, rnd := some (n + 1) } ∨
        n = s.cfg.r ∧ t = finishBlock s ab)) ∨
      t = { s with FAULT := some .noValue } := by
  rcases orNoValue_eq_next.1 h with h | ⟨-, h⟩
  · simp only [Option.bind_eq_bind, Option.bind_eq_some_iff] at h
    obtain ⟨a, ha, b, hb, n, hn, ab, hab, h⟩ := h
    refine .inl ⟨a, b, n, ab, ha, hb, hn, hab, ?_⟩
    have h := (Option.some.inj h).symm
    split at h
    · exact .inr ⟨by omega, h.trans (by simp [finishBlock, respond, discardWorking])⟩
    · exact .inl ⟨by omega, h⟩
  · exact .inr h

/-- The post-whitening finishes a DEC. -/
theorem decFinish_eq_some {ab : Word × Word} :
    decFinish s ab = some t ↔ ∃ ab', postWhiten s.cfg s.S ab = some ab' ∧ t = finishBlock s ab' := by
  simp only [decFinish, Option.bind_eq_bind, Option.bind_eq_some_iff, Option.pure_def,
    Option.some.injEq]
  exact exists_congr fun ab' => and_congr_right fun _ => eq_comm

/-- The DEC entry goes on to the rounds, or post-whitens and finishes when there are none. -/
theorem decEntry_cases {ab : Word × Word} (h : decEntry s ab = some t) :
    (s.cfg.r ≠ 0 ∧ t = { s with rnd := some s.cfg.r, PHASE := .deRun }) ∨
      (s.cfg.r = 0 ∧ ∃ ab', postWhiten s.cfg s.S ab = some ab' ∧ t = finishBlock s ab') := by
  unfold decEntry at h
  dsimp only at h
  split at h
  · obtain ⟨ab', hab, h⟩ := decFinish_eq_some.1 h
    exact .inr ⟨‹_›, ab', hab, h.trans (by simp [finishBlock, respond, discardWorking])⟩
  · exact .inl ⟨‹_›, (Option.some.inj h).symm⟩

/-- A DEC round goes on, or post-whitens and finishes after round 1. -/
theorem deRunStep_cases (h : deRunStep s = .next t) :
    (∃ a b n ab, s.A = some a ∧ s.B = some b ∧ s.rnd = some n ∧
      decRound s.cfg s.S n (a, b) = some ab ∧
      (n - 1 ≠ 0 ∧ t = { s with A := some ab.1, B := some ab.2, rnd := some (n - 1) } ∨
        n - 1 = 0 ∧ ∃ ab', postWhiten s.cfg s.S ab = some ab' ∧ t = finishBlock s ab')) ∨
      t = { s with FAULT := some .noValue } := by
  rcases orNoValue_eq_next.1 h with h | ⟨-, h⟩
  · simp only [Option.bind_eq_bind, Option.bind_eq_some_iff] at h
    obtain ⟨a, ha, b, hb, n, hn, ab, hab, h⟩ := h
    refine .inl ⟨a, b, n, ab, ha, hb, hn, hab, ?_⟩
    split at h
    · obtain ⟨ab', hab', h⟩ := decFinish_eq_some.1 h
      exact .inr ⟨‹_›, ab', hab', h.trans (by simp [finishBlock, respond, discardWorking])⟩
    · exact .inl ⟨‹_›, (Option.some.inj h).symm⟩
  · exact .inr h

end Sys2Proof.Machine
end

