-- ==== Sys2Proof/Laws/Datapath.lean ====
section
/-! SUPPORT. Every datapath operation gives a word of w bits, and the operations agree with the
fixed-width arithmetic of BitVec. -/

namespace Sys2Proof.Machine

variable {w x y : Nat}

theorem addW_fits (w x y : Nat) : addW w x y < 2 ^ w := Nat.mod_lt _ (Nat.two_pow_pos w)

theorem subW_fits (w x y : Nat) : subW w x y < 2 ^ w := Nat.mod_lt _ (Nat.two_pow_pos w)

theorem xorW_fits (hx : x < 2 ^ w) (hy : y < 2 ^ w) : xorW x y < 2 ^ w := Nat.xor_lt_two_pow hx hy

theorem shlW_fits (w x s : Nat) : shlW w x s < 2 ^ w := Nat.mod_lt _ (Nat.two_pow_pos w)

theorem shrW_fits (s : Nat) (hx : x < 2 ^ w) : shrW x s < 2 ^ w :=
  lt_of_le_of_lt (Nat.div_le_self _ _) hx

theorem rolW_fits (y : Nat) (hx : x < 2 ^ w) : rolW w x y < 2 ^ w := by
  unfold rolW
  split
  · exact hx
  · exact Nat.or_lt_two_pow (shlW_fits ..) (shrW_fits _ hx)

theorem rorW_fits (y : Nat) (hx : x < 2 ^ w) : rorW w x y < 2 ^ w := by
  unfold rorW
  split
  · exact hx
  · exact Nat.or_lt_two_pow (shrW_fits _ hx) (shlW_fits ..)

/-- The two word additions of the mix are one sum modulo 2^w (R101). -/
theorem addW_addW (w x y z : Nat) : addW w (addW w x y) z = (x + y + z) % 2 ^ w := by
  simp [addW]

/-- ADD_w is the addition of w-bit vectors. -/
theorem addW_eq_bitvec (w x y : Nat) : addW w x y = (BitVec.ofNat w x + BitVec.ofNat w y).toNat := by
  simp [addW]

/-- SUB_w is the subtraction of w-bit vectors. -/
theorem subW_eq_bitvec (hx : x < 2 ^ w) (hy : y < 2 ^ w) :
    subW w x y = (BitVec.ofNat w x - BitVec.ofNat w y).toNat := by
  simp only [subW, BitVec.toNat_sub, BitVec.toNat_ofNat, Nat.mod_eq_of_lt hx, Nat.mod_eq_of_lt hy]
  rw [show x + 2 ^ w - y = 2 ^ w - y + x by omega]

/-- XOR is that of w-bit vectors. -/
theorem xorW_eq_bitvec (hx : x < 2 ^ w) (hy : y < 2 ^ w) :
    xorW x y = (BitVec.ofNat w x ^^^ BitVec.ofNat w y).toNat := by
  simp [xorW, Nat.mod_eq_of_lt hx, Nat.mod_eq_of_lt hy]

end Sys2Proof.Machine
end

