-- ==== Sys2Proof/Laws/Decode.lean ====
section
/-! SUPPORT. The bits and bytes of command words, once. -/

namespace Sys2Proof

/-- Bit n of the word of a 16-bit field, a byte and a byte. -/
theorem getLsbD_fields (l : BitVec 16) (r o : Byte) (n : Nat) :
    BitVec.getLsbD (w := 32) (l ++ r ++ o) n =
      if n < 8 then o.getLsbD n else if n < 16 then r.getLsbD (n - 8) else l.getLsbD (n - 16) := by
  have h : BitVec.getLsbD (w := 16 + 8 + 8) (l ++ r ++ o) n = _ := BitVec.getLsbD_append
  refine h.trans ?_
  rw [BitVec.getLsbD_append]
  by_cases h8 : n < 8
  · simp [h8]
  · by_cases h16 : n < 16
    · simp [h8, h16, show n - 8 < 8 by omega]
    · simp [h8, h16, show ¬ n - 8 < 8 by omega, show n - 8 - 8 = n - 16 by omega]

/-- Bit n of the word of four header bytes (R81). -/
theorem getLsbD_wordOfBytes (b0 b1 b2 b3 : Byte) (n : Nat) :
    (wordOfBytes b0 b1 b2 b3).getLsbD n =
      if n < 8 then b0.getLsbD n else if n < 16 then b1.getLsbD (n - 8)
      else if n < 24 then b2.getLsbD (n - 16) else b3.getLsbD (n - 24) := by
  have h : BitVec.getLsbD (w := 8 + 8 + 8 + 8) (b3 ++ b2 ++ b1 ++ b0) n = _ := BitVec.getLsbD_append
  refine h.trans ?_
  rw [BitVec.getLsbD_append, BitVec.getLsbD_append]
  by_cases h8 : n < 8
  · simp [h8]
  · by_cases h16 : n < 16
    · simp [h8, h16, show n - 8 < 8 by omega]
    · by_cases h24 : n < 24
      · simp [h8, h16, h24, show ¬ n - 8 < 8 by omega, show n - 8 - 8 = n - 16 by omega,
          show n - 16 < 8 by omega]
      · simp [h8, h16, h24, show ¬ n - 8 < 8 by omega, show n - 8 - 8 = n - 16 by omega,
          show ¬ n - 16 < 8 by omega, show n - 16 - 8 = n - 24 by omega]

/-- Bit n of byte k of a command word (R39). -/
theorem getLsbD_byteOfWord (cw : BitVec 32) (k n : Nat) :
    (byteOfWord cw k).getLsbD n = (decide (n < 8) && cw.getLsbD (8 * k + n)) := by
  simp [byteOfWord, BitVec.getLsbD_extractLsb']

/-- A word is the word of its four bytes. -/
theorem wordOfBytes_bytesOfWord (cw : BitVec 32) :
    wordOfBytes (byteOfWord cw 0) (byteOfWord cw 1) (byteOfWord cw 2) (byteOfWord cw 3) = cw := by
  apply BitVec.eq_of_getLsbD_eq
  intro n hn
  rw [getLsbD_wordOfBytes]
  simp only [getLsbD_byteOfWord]
  by_cases h8 : n < 8
  · simp [h8]
  · by_cases h16 : n < 16
    · simp [h8, h16, show n - 8 < 8 by omega, show 8 + (n - 8) = n by omega]
    · by_cases h24 : n < 24
      · simp [h8, h16, h24, show n - 16 < 8 by omega, show 16 + (n - 16) = n by omega]
      · simp [h8, h16, h24, show n - 24 < 8 by omega, show 24 + (n - 24) = n by omega]

/-- The three fields of an encoded command (R82). -/
theorem opcOf_encodeWord (i : Instr) : opcOf (encodeWord i) = opcFor i := by
  apply BitVec.eq_of_getLsbD_eq
  intro n hn
  simp [opcOf, encodeWord, getLsbD_fields, hn]

theorem rsvOf_encodeWord (i : Instr) : rsvOf (encodeWord i) = 0x00#8 := by
  apply BitVec.eq_of_getLsbD_eq
  intro n hn
  simp [rsvOf, encodeWord, getLsbD_fields, hn,
    show ¬ 8 + n < 8 by omega, show 8 + n < 16 by omega]

theorem lenOf_encodeWord (i : Instr) : lenOf (encodeWord i) = i.len % 65536 := by
  have h : (encodeWord i).extractLsb' 16 16 = BitVec.ofNat 16 i.len := by
    apply BitVec.eq_of_getLsbD_eq
    intro n hn
    simp [encodeWord, getLsbD_fields, hn,
      show ¬ 16 + n < 8 by omega, show ¬ 16 + n < 16 by omega]
  simp [lenOf, h]

end Sys2Proof
end

