-- ==== Sys2Proof/Laws/Params.lean ====
section
/-! SUPPORT. What a legal configuration gives the derived parameters of R6. -/

namespace Sys2Proof

variable {cfg : Config}

/-- The four widths of R5. -/
theorem legal_width (h : cfg.legal = true) : cfg.w = 8 ∨ cfg.w = 16 ∨ cfg.w = 32 ∨ cfg.w = 64 := by
  simp [Config.legal] at h
  omega

theorem legal_rounds (h : cfg.legal = true) : cfg.r ≤ 255 := by
  simp [Config.legal] at h
  omega

theorem legal_keyBytes (h : cfg.legal = true) : cfg.b ≤ 255 := by
  simp [Config.legal] at h
  omega

theorem legal_u (h : cfg.legal = true) : cfg.u = 1 ∨ cfg.u = 2 ∨ cfg.u = 4 ∨ cfg.u = 8 := by
  have := legal_width h
  unfold Config.u
  omega

theorem u_pos (h : cfg.legal = true) : 0 < cfg.u := by
  have := legal_u h
  omega

/-- A word of w bits has u bytes. -/
theorem eight_mul_u (h : cfg.legal = true) : 8 * cfg.u = cfg.w := by
  have := legal_width h
  unfold Config.u
  omega

theorem two_le_t (cfg : Config) : 2 ≤ cfg.t := by
  unfold Config.t
  omega

theorem blockBytes_pos (h : cfg.legal = true) : 0 < cfg.blockBytes := by
  have := u_pos h
  unfold Config.blockBytes
  omega

/-- c is the least number of words that holds b bytes, and at least one (R6, R122). -/
theorem c_pos (h : cfg.legal = true) : 0 < cfg.c := by
  have := u_pos h
  exact Nat.div_pos (by omega) this

/-- "c·u ≥ b" (R122). -/
theorem keyBytes_le (h : cfg.legal = true) : cfg.b ≤ cfg.c * cfg.u := by
  have hu := u_pos h
  have := Nat.div_add_mod (max cfg.b 1 + cfg.u - 1) cfg.u
  have := Nat.mod_lt (max cfg.b 1 + cfg.u - 1) hu
  have : cfg.c * cfg.u = cfg.u * ((max cfg.b 1 + cfg.u - 1) / cfg.u) := by
    rw [Config.c, Nat.mul_comm]
  omega

/-- Every key byte has a word of L (R124). -/
theorem keyWord_lt (h : cfg.legal = true) {n : Nat} (hn : n < cfg.b) : n / cfg.u < cfg.c :=
  (Nat.div_lt_iff_lt_mul (u_pos h)).2 (lt_of_lt_of_le hn (keyBytes_le h))

theorem nMix_pos (cfg : Config) : 0 < cfg.nMix := by
  have := two_le_t cfg
  unfold Config.nMix
  omega

/-- The magic constants of a legal configuration exist and are words of w bits (R7). -/
theorem magicP_fits (h : cfg.legal = true) : ∃ p, cfg.magicP = some p ∧ p < 2 ^ cfg.w := by
  rcases legal_width h with e | e | e | e <;> simp [Config.magicP, e]

theorem magicQ_fits (h : cfg.legal = true) : ∃ q, cfg.magicQ = some q ∧ q < 2 ^ cfg.w := by
  rcases legal_width h with e | e | e | e <;> simp [Config.magicQ, e]

end Sys2Proof
end

