-- ==== Sys2Proof/Laws/Step.lean ====
section
/-! SUPPORT. What one step can answer, once: a stop, a refusal of the configuration, a reset, or the
core's step in its phase. -/

namespace Sys2Proof.Machine

variable {s t : State}

/-- A step that answers a next state started without a mark; it refused the configuration, or reset,
or ran the core. -/
theorem step_cases (h : step s = .next t) :
    s.FAULT = none ∧ s.REFUSED = none ∧
      (s.cfg.legal = false ∧ t = { s with REFUSED := some .refConfig } ∨
        s.cfg.legal = true ∧
          (s.host.moves.head? = some .reset ∧ t = popMove (resetEvent s) ∨
            s.host.moves.head? ≠ some .reset ∧ ∃ u, coreStep s = .next u ∧ t = popMove u)) := by
  unfold step tick at h
  split at h
  · simp at h
  · simp at h
  · rename_i hf hr
    refine ⟨hf, hr, ?_⟩
    split at h
    · exact .inl ⟨‹_›, by simpa [refuse] using h.symm⟩
    · refine .inr ⟨Bool.eq_true_of_not_eq_false ‹_›, ?_⟩
      split at h
      · rename_i hm
        exact .inl ⟨by simp [hm], by simpa using h.symm⟩
      · rename_i hm
        obtain ⟨u, hu, rfl⟩ := onNext_eq_next.1 h
        refine .inr ⟨?_, u, hu, rfl⟩
        intro hh
        cases hl : s.host.moves with
        | nil => simp [hl] at hh
        | cons m ms =>
          rw [hl] at hh
          exact hm ms (by rw [hl]; simp_all)

/-- The step of a core that may step is the core's own step, with the host's move used up. -/
theorem step_of_running (hf : s.FAULT = none) (hr : s.REFUSED = none) (hl : s.cfg.legal = true)
    (hm : s.host.moves.head? ≠ some .reset) : step s = onNext popMove (coreStep s) := by
  unfold step tick
  rw [hf, hr]
  simp only [hl]
  cases h : s.host.moves with
  | nil => simp
  | cons m ms => cases m <;> simp_all

/-- The core's step, phase by phase. -/
theorem coreStep_cases (s : State) :
    (s.PHASE = .idle ∧ coreStep s = recvByte headerByte s) ∨
      (s.PHASE = .pay ∧ coreStep s = runCommandWord s) ∨
      (s.PHASE ≠ .idle ∧ s.PHASE ≠ .pay ∧ ∀ i, coreStep s = exec i s) := by
  cases h : s.PHASE
  case idle => exact .inl ⟨rfl, by simp [coreStep, byPhase, h]⟩
  case pay => exact .inr (.inl ⟨rfl, by simp [coreStep, byPhase, h]⟩)
  all_goals
    refine .inr (.inr ⟨by simp, by simp, fun i => ?_⟩)
    cases i <;> simp [coreStep, exec, execKeyx, execEnc, execDec, byPhase, h]

/-- Running CW: the command it decodes to, a refusal by name, or no value in it. -/
theorem runCommandWord_cases (s : State) :
    (∃ cw i, commandWord s = some cw ∧ decodeWord cw = .ok i ∧ runCommandWord s = exec i s) ∨
      (∃ cw, commandWord s = some cw ∧ decodeWord cw = .error .opcode ∧
        runCommandWord s = .next { s with REFUSED := some .refOpcode }) ∨
      (∃ cw, commandWord s = some cw ∧ decodeWord cw = .error .rsv ∧
        runCommandWord s = .next { s with REFUSED := some .refRsv }) ∨
      (commandWord s = none ∧ runCommandWord s = .next { s with FAULT := some .noValue }) := by
  unfold runCommandWord
  cases hc : commandWord s with
  | none => simp [raiseFault]
  | some cw =>
    cases hd : decodeWord cw with
    | ok i => exact .inl ⟨cw, i, rfl, hd, by simp [hd]⟩
    | error e => cases e <;> simp [hd, refuse]

/-- A header byte is counted, or it is the fourth and the header is run. -/
theorem headerByte_cases (v : Byte) (s : State) :
    (s.HDRCNT < 3 ∧ headerByte v s =
      .next { s with CW := s.CW.set s.HDRCNT (some v), HDRCNT := s.HDRCNT + 1 }) ∨
      (¬ s.HDRCNT < 3 ∧ headerByte v s =
        runCommandWord { s with CW := s.CW.set s.HDRCNT (some v), HDRCNT := 0 }) := by
  by_cases h : s.HDRCNT < 3 <;> simp [headerByte, h]

end Sys2Proof.Machine
end

