-- ==== Sys2Proof/Laws/Invariant.lean ====
section
/-! SUPPORT. The state invariant does not depend on the host; and the iterations and rounds of the source
give words of w bits from arrays whose entries hold values. -/

namespace Sys2Proof.Machine

variable {s : State} {cfg : Config}

/-- No part of the invariant reads the host. -/
theorem inv_withHost (h : s.Inv) (host : HostAgent) : { s with host := host }.Inv := by
  cases h
  constructor <;> assumption

theorem wordFits_none (w : Nat) : wordFits w none := by
  intro x hx
  cases hx

theorem wordFits_some {w : Nat} {x : Word} (h : x < 2 ^ w) : wordFits w (some x) := by
  intro y hy
  cases hy
  exact h

/-- An entry read from an array of w-bit words is a w-bit word. -/
theorem entry_fits {w : Nat} {xs : List (Option Word)} {n : Nat} {x : Word}
    (h : ∀ o ∈ xs, wordFits w o) (hx : entry xs n = some x) : x < 2 ^ w :=
  h _ (List.mem_of_getElem? (entry_eq_some.1 hx)) x rfl

theorem allValued_set {α : Type} {xs : List (Option α)} (h : allValued xs) (n : Nat) (a : α) :
    allValued (xs.set n (some a)) :=
  forall_mem_set h rfl

theorem wordFits_set {w : Nat} {xs : List (Option Word)} (h : ∀ o ∈ xs, wordFits w o) (n : Nat)
    {a : Word} (ha : a < 2 ^ w) : ∀ o ∈ xs.set n (some a), wordFits w o :=
  forall_mem_set h (wordFits_some ha)

theorem noneValued_replicate (n : Nat) : noneValued (List.replicate n (none : Option Word)) := by
  intro o ho
  rw [List.eq_of_mem_replicate ho]
  rfl

theorem workingEmpty_respond (st : Byte) (data : List Byte) (s : State) :
    (respond st data s).workingEmpty :=
  ⟨noneValued_replicate _, rfl, rfl, rfl, rfl, rfl, rfl⟩

/-- A byte-lane write of a word of u bytes gives a word of u bytes (R67). -/
theorem setByteLane_fits {u q : Nat} {x : Word} (v : Byte) (hx : x < 2 ^ (8 * u)) (hq : q < u) :
    setByteLane x q v < 2 ^ (8 * u) := by
  obtain ⟨d, rfl⟩ : ∃ d, u = q + 1 + d := ⟨u - (q + 1), by omega⟩
  have hv := v.isLt
  have e : 2 ^ (8 * (q + 1 + d)) = 2 ^ (8 * (q + 1)) * 2 ^ (8 * d) := by
    rw [← pow_add]
    congr 1
    omega
  have e2 : 2 ^ (8 * (q + 1)) = 2 ^ (8 * q) * 2 ^ 8 := by
    rw [← pow_add]
    congr 1
  unfold setByteLane
  rw [e] at hx ⊢
  have hlt := Nat.mul_le_mul_right (2 ^ (8 * (q + 1))) (Nat.div_lt_of_lt_mul hx)
  rw [Nat.succ_eq_add_one, Nat.add_mul, Nat.one_mul] at hlt
  have hm : x % 2 ^ (8 * q) < 2 ^ (8 * q) := Nat.mod_lt _ (Nat.two_pow_pos _)
  have hvq : v.toNat * 2 ^ (8 * q) + 2 ^ (8 * q) ≤ 2 ^ (8 * (q + 1)) := by
    rw [e2]
    nlinarith [Nat.two_pow_pos (8 * q)]
  have key : ∀ P D Z V m Q : Nat, Z + P ≤ D * P → V + Q ≤ P → m < Q → Z + V + m < P * D := by
    intro P D Z V m Q h1 h2 h3
    rw [Nat.mul_comm]
    omega
  exact key _ _ _ _ _ _ hlt hvq hm

/-- One Init iteration, with a value in S[n - 1] (R125). -/
theorem initIteration_spec {S : List (Option Word)} {n : Nat} {x : Word} (hl : cfg.legal = true)
    (hx : entry S (n - 1) = some x) :
    ∃ y, initIteration cfg n S = some (S.set n (some y)) ∧ y < 2 ^ cfg.w := by
  obtain ⟨q, hq, -⟩ := magicQ_fits hl
  exact ⟨addW cfg.w x q, by simp [initIteration, hx, hq], addW_fits ..⟩

/-- One mix iteration over full arrays gives full arrays of the same lengths (R127). -/
theorem mixIteration_spec {m : MixVars} (hS : allValued m.S) (hL : allValued m.L)
    (fS : ∀ o ∈ m.S, wordFits cfg.w o) (fL : ∀ o ∈ m.L, wordFits cfg.w o) (hi : m.i < m.S.length)
    (hj : m.j < m.L.length) :
    ∃ m', mixIteration cfg m = some m' ∧ m'.S.length = m.S.length ∧ m'.L.length = m.L.length ∧
      allValued m'.S ∧ allValued m'.L ∧ (∀ o ∈ m'.S, wordFits cfg.w o) ∧
      (∀ o ∈ m'.L, wordFits cfg.w o) ∧ m'.A < 2 ^ cfg.w ∧ m'.B < 2 ^ cfg.w ∧
      m'.i = (m.i + 1) % cfg.t ∧ m'.j = (m.j + 1) % cfg.c := by
  obtain ⟨x, hx⟩ := entry_of_valued hS hi
  obtain ⟨y, hy⟩ := entry_of_valued hL hj
  have fa := rolW_fits 3 (addW_fits cfg.w (addW cfg.w x m.A) m.B)
  refine ⟨_, by simp [mixIteration, hx, hy]; rfl, by simp, by simp, allValued_set hS _ _,
    allValued_set hL _ _, wordFits_set fS _ fa, wordFits_set fL _ ?_, fa, ?_, rfl, rfl⟩
  all_goals exact rolW_fits _ (addW_fits ..)

/-- The pre-whitening of a full schedule (R153). -/
theorem preWhiten_spec {S : List (Option Word)} {ab : Word × Word} (hS : allValued S)
    (h2 : 2 ≤ S.length) :
    ∃ ab', preWhiten cfg S ab = some ab' ∧ ab'.1 < 2 ^ cfg.w ∧ ab'.2 < 2 ^ cfg.w := by
  obtain ⟨x, hx⟩ := entry_of_valued (n := 0) hS (by omega)
  obtain ⟨y, hy⟩ := entry_of_valued (n := 1) hS (by omega)
  exact ⟨_, by simp [preWhiten, hx, hy]; rfl, addW_fits .., addW_fits ..⟩

/-- The post-whitening of a full schedule (R159). -/
theorem postWhiten_spec {S : List (Option Word)} {ab : Word × Word} (hS : allValued S)
    (h2 : 2 ≤ S.length) :
    ∃ ab', postWhiten cfg S ab = some ab' ∧ ab'.1 < 2 ^ cfg.w ∧ ab'.2 < 2 ^ cfg.w := by
  obtain ⟨x, hx⟩ := entry_of_valued (n := 0) hS (by omega)
  obtain ⟨y, hy⟩ := entry_of_valued (n := 1) hS (by omega)
  exact ⟨_, by simp [postWhiten, hx, hy]; rfl, subW_fits .., subW_fits ..⟩

/-- An ENC round over a full schedule (R154). -/
theorem encRound_spec {S : List (Option Word)} {n : Nat} {ab : Word × Word} (hS : allValued S)
    (hn : 2 * n + 1 < S.length) :
    ∃ ab', encRound cfg S n ab = some ab' ∧ ab'.1 < 2 ^ cfg.w ∧ ab'.2 < 2 ^ cfg.w := by
  obtain ⟨x, hx⟩ := entry_of_valued (n := 2 * n) hS (by omega)
  obtain ⟨y, hy⟩ := entry_of_valued (n := 2 * n + 1) hS hn
  exact ⟨_, by simp [encRound, hx, hy]; rfl, addW_fits .., addW_fits ..⟩

/-- A DEC round over a full schedule (R158). -/
theorem decRound_spec {S : List (Option Word)} {n : Nat} {ab : Word × Word} (hS : allValued S)
    (hn : 2 * n + 1 < S.length) (ha : ab.1 < 2 ^ cfg.w) :
    ∃ ab', decRound cfg S n ab = some ab' ∧ ab'.1 < 2 ^ cfg.w ∧ ab'.2 < 2 ^ cfg.w := by
  obtain ⟨x, hx⟩ := entry_of_valued (n := 2 * n) hS (by omega)
  obtain ⟨y, hy⟩ := entry_of_valued (n := 2 * n + 1) hS hn
  have hb := xorW_fits (rorW_fits ab.1 (subW_fits cfg.w ab.2 y)) ha
  exact ⟨_, by simp [decRound, hx, hy]; rfl, xorW_fits (rorW_fits _ (subW_fits ..)) hb, hb⟩

end Sys2Proof.Machine
end

