-- ==== Sys2Proof/Laws/PerInstr.lean ====
section
/-! SUPPORT. A fact about every command as syntax, one lemma per constructor. -/

namespace Sys2Proof.Laws.EncodedHeader

/-- The header of a command is four bytes: its OPC, RSV = 0x00, and LEN low byte first (R81). -/
def Statement (i : Instr) : Prop :=
  encode i =
    [opcFor i, 0x00#8, BitVec.ofNat 8 i.len, BitVec.ofNat 8 (i.len / 2 ^ 8)]

/-- The four bytes of the word of a length, a zero byte and an opcode. -/
theorem bytes_of_fields (n : Nat) (o : Byte) :
    bytesOfWord (BitVec.ofNat 16 n ++ 0x00#8 ++ o) =
      [o, 0x00#8, BitVec.ofNat 8 n, BitVec.ofNat 8 (n / 2 ^ 8)] := by
  simp only [bytesOfWord, List.cons.injEq, and_true]
  refine ⟨?_, ?_, ?_, ?_⟩ <;> apply BitVec.eq_of_getLsbD_eq <;> intro k hk <;>
    rw [getLsbD_byteOfWord, getLsbD_fields]
  · simp [hk]
  · simp [hk, show ¬ 8 + k < 8 by omega, show 8 + k < 16 by omega]
  · rw [if_neg (by omega), if_neg (by omega), BitVec.getLsbD_ofNat, BitVec.getLsbD_ofNat]
    simp [hk, show k < 16 by omega]
  · rw [if_neg (by omega), if_neg (by omega), BitVec.getLsbD_ofNat, BitVec.getLsbD_ofNat,
      Nat.testBit_div_two_pow]
    simp [hk, show 24 + k - 16 = k + 8 by omega, show k + 8 < 16 by omega]

theorem keyx (len : Nat) : Statement (.keyx len) := bytes_of_fields ..

theorem enc (len : Nat) : Statement (.enc len) := bytes_of_fields ..

theorem dec (len : Nat) : Statement (.dec len) := bytes_of_fields ..

end Sys2Proof.Laws.EncodedHeader
end

