-- ==== Sys2Proof/Tests/Slice0.lean ====
section
/-! SUPPORT. The model's own tests: ill-formed terms refused, words written out from the encoding rules,
the spec's worked examples, and for each statement with hypotheses a state and operands that meet them. -/

namespace Sys2Proof.Tests

open Sys2Proof.Machine

/-! ### WellFormed: an ill-formed term for each check -/

/-- R85: a payload of 65536 bytes "cannot be encoded"; 65535 is the last legal LEN. -/
theorem test_wellFormed_len :
    ¬ (Instr.keyx 65536).wellFormed ∧ ¬ (Instr.enc 65536).wellFormed ∧
      ¬ (Instr.dec 65536).wellFormed ∧ (Instr.keyx 65535).wellFormed := by decide

/-- R68: "a payload must be exactly LEN bytes". -/
theorem test_wellFormed_payload :
    ¬ Frame.wellFormed ⟨.enc 2, [0x00#8]⟩ ∧ ¬ Frame.wellFormed ⟨.enc 2, [0x00#8, 0x01#8, 0x02#8]⟩ ∧
      Frame.wellFormed ⟨.enc 2, [0x00#8, 0x01#8]⟩ := by decide

/-- R5: a width, a round count and a key length outside the ranges; the ends of the ranges are legal. -/
theorem test_legal_config :
    Config.legal ⟨24, 12, 16⟩ = false ∧ Config.legal ⟨32, 256, 16⟩ = false ∧
      Config.legal ⟨32, 12, 256⟩ = false ∧ Config.legal ⟨64, 255, 255⟩ = true ∧
      Config.legal ⟨8, 0, 0⟩ = true := by decide

/-! ### Decode: words written out bit by bit from R82 (LEN, then RSV, then OPC) and R81 (bytes) -/

/-- KEYX with 16 bytes: LEN = 0000000000010000, RSV = 00000000, OPC = 00000001. -/
theorem test_decode_keyx :
    decodeWord 0b00000000000100000000000000000001#32 = .ok (.keyx 16) ∧
      decode [0b00000001#8, 0b00000000#8, 0b00010000#8, 0b00000000#8] = .ok (.keyx 16, []) := by decide

/-- ENC with 8 bytes: LEN = 0000000000001000, RSV = 00000000, OPC = 00000010. -/
theorem test_decode_enc :
    decodeWord 0b00000000000010000000000000000010#32 = .ok (.enc 8) ∧
      decode [0b00000010#8, 0b00000000#8, 0b00001000#8, 0b00000000#8] = .ok (.enc 8, []) := by decide

/-- DEC with 33025 = 0x8101 bytes: LEN = 1000000100000001, so both bytes of LEN and its top bit count. -/
theorem test_decode_dec :
    decodeWord 0b10000001000000010000000000000011#32 = .ok (.dec 33025) ∧
      decode [0b00000011#8, 0b00000000#8, 0b00000001#8, 0b10000001#8] = .ok (.dec 33025, []) := by
  decide

/-- R90: OPC 0x00 and 0x04 are reserved, RSV 0x80 is reserved, OPC is checked first. -/
theorem test_decode_reserved :
    decodeWord 0b00000000000010000000000000000000#32 = .error .opcode ∧
      decodeWord 0b00000000000010000000000000000100#32 = .error .opcode ∧
      decodeWord 0b00000000000010001000000000000010#32 = .error .rsv ∧
      decodeWord 0b00000000000010001000000000000100#32 = .error .opcode := by decide

/-- R86: a frame is 4 + LEN bytes; what follows it is left, a short one is incomplete. -/
theorem test_decodeFrame :
    decodeFrame [0x02#8, 0x00#8, 0x02#8, 0x00#8, 0xAA#8, 0xBB#8, 0xCC#8] =
        .ok (⟨.enc 2, [0xAA#8, 0xBB#8]⟩, [0xCC#8]) ∧
      decodeFrame [0x02#8, 0x00#8, 0x02#8, 0x00#8, 0xAA#8] = .error .incomplete ∧
      decode [0x02#8, 0x00#8, 0x02#8] = .error .incomplete := by decide

/-- R91, R92: assembler lines and their bytes. -/
theorem test_assemble :
    assembleLine (.keyx []) = some [0x01#8, 0x00#8, 0x00#8, 0x00#8] ∧
      assembleLine (.enc (repeated 0x00#8 2)) =
        some [0x02#8, 0x00#8, 0x02#8, 0x00#8, 0x00#8, 0x00#8] ∧
      assembleLine (.cw 0x00080102#32) = some [0x02#8, 0x01#8, 0x08#8, 0x00#8] ∧
      assembleLine (.byte [0x07#8]) = some [0x07#8] := by decide

/-- The three rows of spec/opcode_table.json as the table numbers their bits. -/
theorem test_decodeTableWord :
    decodeTableWord 32 0x00000001 = some (.keyx 0) ∧ decodeTableWord 32 0x00080002 = some (.enc 8) ∧
      decodeTableWord 32 0x00100003 = some (.dec 16) ∧ decodeTableWord 32 0x00000004 = none := by
  decide

/-! ### The spec's examples of the datapath and the marshaller -/

/-- R101, R102, R103: the examples of the rules. -/
theorem test_add_sub_xor :
    addW 8 0xFF 0x01 = 0x00 ∧ addW 32 0xB7E15163 0x9E3779B9 = 0x5618CB1C ∧ subW 8 0x00 0x01 = 0xFF ∧
      subW 16 0x1234 0x1235 = 0xFFFF ∧ xorW 0x12345678 0xFFFFFFFF = 0xEDCBA987 := by decide

/-- R104, R105, R107, R108: the examples of the rules. -/
theorem test_shift_rotate :
    shlW 8 0x81 1 = 0x02 ∧ shrW 0x81 1 = 0x40 ∧ rolW 32 0x80000001 1 = 0x00000003 ∧
      rolW 32 0x12345678 0xDEADBEE3 = 0x91A2B3C0 ∧ rolW 8 0x81 8 = 0x81 ∧
      rorW 32 0x80000001 1 = 0xC0000000 ∧ rorW 32 0x12345678 4 = 0x81234567 := by decide

/-- R182, R183: the examples of the rules. -/
theorem test_marshaller :
    blockToWords 4 [0x21#8, 0xA5#8, 0xDB#8, 0xEE#8, 0x15#8, 0x4B#8, 0x8F#8, 0x6D#8] =
        (0xEEDBA521, 0x6D8F4B15) ∧
      wordsToBlock 2 0xA823 0x2ED7 = [0x23#8, 0xA8#8, 0xD7#8, 0x2E#8] ∧
      blockToWords 1 [0x00#8, 0x01#8] = (0x00, 0x01) := by decide

/-- R122: w = 32, K = 01 02 03 04 05 gives L = [0x04030201, 0x00000005]. -/
theorem test_pack :
    pack ⟨32, 12, 5⟩ [0x01#8, 0x02#8, 0x03#8, 0x04#8, 0x05#8] =
      some [some 0x04030201, some 0x00000005] := by decide

/-! ### One step of each command, from small states -/

/-- RC5-8/0/0 (R127). -/
def small : Config := ⟨8, 0, 0⟩

/-- RC5-8/1/1: u = 1, t = 4, c = 1, N_mix = 12. -/
def oneRound : Config := ⟨8, 1, 1⟩

/-- RC5-16/0/3: u = 2, t = 2, c = 2. -/
def wide : Config := ⟨16, 0, 3⟩

/-- The reset state for cfg, keyed with the words S. -/
def keyedWith (cfg : Config) (S : List Word) : State :=
  { State.resetFor cfg with S := S.map some, KEYED := true }

/-- s in PAY after n payload bytes of the command i. -/
def inPay (s : State) (i : Instr) (n : Nat) (cmd : List Byte) : State :=
  { s with
    PHASE := .pay, CW := (encode i).map some, RXCNT := some n, host := { s.host with cmd := cmd } }

/-- s in IDLE after three header bytes, the fourth one offered. -/
def atFourth (s : State) (b0 b1 b2 b3 : Byte) : State :=
  { s with
    HDRCNT := 3, CW := [some b0, some b1, some b2, none], host := { s.host with cmd := [b3] } }

/-- s in DRAIN with the code st after n payload bytes of the command i. -/
def inDrain (s : State) (i : Instr) (st : Byte) (n : Nat) (cmd : List Byte) : State :=
  { s with
    PHASE := .drain, CW := (encode i).map some, RXCNT := some n, ST := some st
    host := { s.host with cmd := cmd } }

/-- s in KX_INIT of a KEYX that gave the words L. -/
def inInit (s : State) (S : List (Option Word)) (L : List Word) (n : Nat) : State :=
  { s with PHASE := .kxInit, CW := (encode (.keyx s.cfg.b)).map some, RXCNT := some s.cfg.b
           S := S, L := L.map some, i := some n }

/-- s in KX_MIX before iteration q. -/
def inMix (s : State) (S L : List Word) (a b : Word) (q : Nat) : State :=
  { s with PHASE := .kxMix, CW := (encode (.keyx s.cfg.b)).map some, RXCNT := some s.cfg.b
           S := S.map some, L := L.map some, A := some a, B := some b
           i := some (q % s.cfg.t), j := some (q % s.cfg.c), k := some q }

/-- s in EN_RUN or DE_RUN of round n. -/
def inRound (s : State) (p : Phase) (i : Instr) (n : Nat) (a b : Word) : State :=
  { s with PHASE := p, CW := (encode i).map some, RXCNT := some i.len
           A := some a, B := some b, rnd := some n }

/-- s in RESP with an OK response of `data`, n bytes of it taken. -/
def inResp (s : State) (data : List Byte) (n : Nat) : State :=
  { s with PHASE := .resp, CW := (encode (.enc s.cfg.blockBytes)).map some, RXCNT := some 0
           ST := some 0x00#8, DATA := data.map some ++ s.DATA.drop data.length
           RLEN := some data.length, TXCNT := some n }

/-- 95_test_vectors.md KS-3a: RC5-8/0/0, K empty: "Final S = 0xC6 0x34", `ENC 00 00 -> 00 C6 34`,
`DEC 00 00 -> 00 3A CC`. -/
theorem test_vector_KS3a :
    expand small [] = some [some 0xC6, some 0x34] ∧
      encrypt small [some 0xC6, some 0x34] [0x00#8, 0x00#8] = some [0xC6#8, 0x34#8] ∧
      decrypt small [some 0xC6, some 0x34] [0x00#8, 0x00#8] = some [0x3A#8, 0xCC#8] := by decide

/-- The step after withFetchWord runs the command: KEYX of 16 bytes goes to PAY, ENC and DEC of a
block fault on the unkeyed core of reset (R152), a reserved word is refused (R90). -/
theorem test_withFetchWord :
    (∃ t, step (State.reset.withFetchWord 32 0x00100001) = .next t ∧ t.PHASE = .pay ∧
      t.host.cmd.length = 16) ∧
      (∃ t, step (State.reset.withFetchWord 32 0x00080002) = .next t ∧ t.FAULT = some .unkeyed) ∧
      (∃ t, step (State.reset.withFetchWord 32 0x00080003) = .next t ∧ t.FAULT = some .unkeyed) ∧
      ∃ t, step (State.reset.withFetchWord 32 0x00000004) = .next t ∧
        t.REFUSED = some .refOpcode :=
  ⟨⟨_, rfl, rfl, rfl⟩, ⟨_, rfl, rfl⟩, ⟨_, rfl, rfl⟩, _, rfl, rfl⟩

/-- R202: KEYX of b = 0 bytes starts Init in the step of the fourth header byte. -/
theorem test_keyx_header :
    step (atFourth (State.resetFor small) 0x01#8 0x00#8 0x00#8 0x00#8) = .next
      { State.resetFor small with
        PHASE := .kxInit, CW := [some 0x01#8, some 0x00#8, some 0x00#8, some 0x00#8]
        RXCNT := some 0, S := [some 0xB7, none], L := [some 0x00], i := some 1 } := by rfl

/-- R127: the first mix iteration of RC5-8/0/0 gives S[0] = A = 0xBD and L[0] = B = 0xB7. -/
theorem test_keyx_mix :
    exec (.keyx 0) (inMix (State.resetFor small) [0xB7, 0x56] [0x00] 0 0 0) = .next
      { inMix (State.resetFor small) [0xBD, 0x56] [0xB7] 0xBD 0xB7 1 with j := some 0 } := by rfl

/-- R153, R163: with r = 0 the last payload byte of an ENC whitens and responds: 0xFF + 0x02 wraps. -/
theorem test_enc_last_byte :
    exec (.enc 2) ({ inPay (keyedWith small [0x02, 0x03]) (.enc 2) 1 [0x10#8] with
        A := some 0xFF, B := some 0x00 }) = .next
      { inResp (keyedWith small [0x02, 0x03]) [0x01#8, 0x13#8] 0 with RXCNT := some 2 } := by rfl

/-- R158: a DEC round that is not the last, by hand: B = ROR_8(0x09 - 0x05, 0x01) XOR 0x01 = 0x03 and
A = ROR_8(0x01 - 0x04, 0x03) XOR 0x03 = 0xBF XOR 0x03 = 0xBC. -/
theorem test_dec_round :
    exec (.dec 2) (inRound (keyedWith ⟨8, 2, 0⟩ [0, 1, 2, 3, 4, 5]) .deRun (.dec 2) 2 0x01 0x09) =
      .next (inRound (keyedWith ⟨8, 2, 0⟩ [0, 1, 2, 3, 4, 5]) .deRun (.dec 2) 1 0xBC 0x03) := by rfl

/-- R154: an ENC round that is not the last, by hand: A = ROL_8(0x01 XOR 0x09, 0x09) + 0x02 = 0x12 and
B = ROL_8(0x09 XOR 0x12, 0x12) + 0x03 = 0x6C + 0x03 = 0x6F. -/
theorem test_enc_round :
    exec (.enc 2) (inRound (keyedWith ⟨8, 2, 0⟩ [0, 1, 2, 3, 4, 5]) .enRun (.enc 2) 1 0x01 0x09) =
      .next (inRound (keyedWith ⟨8, 2, 0⟩ [0, 1, 2, 3, 4, 5]) .enRun (.enc 2) 2 0x12 0x6F) := by rfl

/-- R152: an ENC of one block on an unkeyed core faults in the step after its header is decoded. -/
theorem test_dec_unkeyed :
    Host.Core.run core 2 (atFourth (State.resetFor small) 0x03#8 0x00#8 0x02#8 0x00#8) =
      .fault Fault.unkeyed := by rfl

/-- R237: the length check comes before the keyed check. -/
theorem test_enc_wrong_length_unkeyed :
    step (atFourth (State.resetFor small) 0x02#8 0x00#8 0x01#8 0x00#8) = .next
      { inDrain (State.resetFor small) (.enc 1) 0x02#8 0 [] with HDRCNT := 0 } := by rfl

/-! ### Witnesses: for every statement with hypotheses, a state and operands that meet them -/

/-- The reset state of RC5-8/0/0 with bytes to send. -/
def sending (cmd : List Byte) : State :=
  { State.resetFor small with host := { (State.resetFor small).host with cmd := cmd } }

theorem witness_DecodeOfEncodeIsTheCommand :
    (Instr.keyx 65535).wellFormed ∧ (Instr.enc 0).wellFormed ∧ (Instr.dec 1).wellFormed := by decide

theorem witness_EncodeOfDecodeIsTheWord : decodeWord 0x00100001#32 = .ok (.keyx 16) := by decide

theorem witness_AssembledLineIsOneFrame :
    (List.replicate 65535 0x00#8).length < 65536 ∧ 65536 ≤ (List.replicate 65536 0x00#8).length := by
  simp only [List.length_replicate]; decide

theorem witness_StepRunsTheDecodedCommand :
    (let s := atFourth (State.resetFor small) 0x02#8 0x00#8 0x02#8 0x00#8;
      s.running ∧ s.PHASE = .idle ∧ s.HDRCNT = 3 ∧ s.CW.length = 4 ∧ entry s.CW 0 = some 0x02#8 ∧
        entry s.CW 1 = some 0x00#8 ∧ entry s.CW 2 = some 0x02#8 ∧ s.offered 0x00#8 [] ∧
        decode [0x02#8, 0x00#8, 0x02#8, 0x00#8] = .ok (.enc 2, [])) ∧
      (let s := inPay (keyedWith small [0x02, 0x03]) (.enc 2) 0 [0x10#8];
        s.running ∧ s.PHASE = .pay ∧ commandWord s = some 0x00020002#32 ∧
          decodeWord 0x00020002#32 = .ok (.enc 2)) ∧
      (let s := inMix (State.resetFor small) [0xB7, 0x56] [0x00] 0 0 0;
        s.running ∧ s.PHASE ≠ .idle ∧ s.PHASE ≠ .pay) := by decide

theorem witness_PlacedCommandRunsNext :
    (State.reset).FAULT = none ∧ (State.reset).REFUSED = none ∧ (State.reset).cfg.legal = true ∧
      decodeTableWord 32 0x00100001 = some (.keyx 16) ∧
      decodeTableWord 32 0xFFFF0003 = some (.dec 65535) := by decide

theorem witness_HeaderByteGoesToItsLane :
    (let s := sending [0x01#8];
      s.running ∧ s.PHASE = .idle ∧ s.HDRCNT < 3 ∧ s.offered 0x01#8 []) ∧
      (let s := { sending [0x00#8] with
          HDRCNT := 2, CW := [some 0x01#8, some 0x00#8, none, none] };
        s.running ∧ s.PHASE = .idle ∧ s.HDRCNT < 3 ∧ s.offered 0x00#8 []) := by decide

theorem witness_ReservedHeaderIsRefused :
    (let s := atFourth (State.resetFor small) 0x04#8 0x00#8 0x00#8 0x00#8;
      s.running ∧ s.PHASE = .idle ∧ s.HDRCNT = 3 ∧ s.CW.length = 4 ∧ entry s.CW 0 = some 0x04#8 ∧
        entry s.CW 1 = some 0x00#8 ∧ entry s.CW 2 = some 0x00#8 ∧ s.offered 0x00#8 [] ∧
        0x04#8 ∉ [0x01#8, 0x02#8, 0x03#8]) ∧
      (let s := atFourth (State.resetFor small) 0x02#8 0x01#8 0x08#8 0x00#8;
        s.running ∧ s.PHASE = .idle ∧ s.HDRCNT = 3 ∧ s.CW.length = 4 ∧ entry s.CW 0 = some 0x02#8 ∧
          entry s.CW 1 = some 0x01#8 ∧ entry s.CW 2 = some 0x08#8 ∧ s.offered 0x00#8 [] ∧
          0x02#8 ∈ [0x01#8, 0x02#8, 0x03#8] ∧ 0x01#8 ≠ 0x00#8) := by decide

theorem witness_MarkedStateHasNoFurtherStep :
    { State.reset with FAULT := some .unkeyed }.FAULT = some .unkeyed ∧
      { State.reset with REFUSED := some .refRsv }.FAULT = none ∧
      { State.reset with REFUSED := some .refRsv }.REFUSED = some .refRsv := ⟨rfl, rfl, rfl⟩

theorem witness_IllegalConfigurationIsRefused :
    (let s := State.resetFor ⟨8, 256, 0⟩;
      s.FAULT = none ∧ s.REFUSED = none ∧ s.cfg.legal = false) ∧
      (let s := sending [];
        s.cfg.legal = true ∧ ∃ t, step s = .next t) :=
  ⟨by decide, by decide, _, rfl⟩

theorem witness_ResetEventSetsEveryRegister :
    let s := inMix { State.resetFor small with
      host := { HostAgent.silent with moves := [.reset, .turn false false] } } [0xB7, 0x56] [0x00] 0 0 0;
    s.FAULT = none ∧ s.REFUSED = none ∧ s.cfg.legal = true ∧
      s.host.moves = .reset :: [.turn false false] := by decide

theorem witness_RespondLoadsTheResponse :
    1 < [0x0A#8, 0x0B#8].length ∧ [0x0A#8].length ≤ 1 ∧ 1 < (State.resetFor small).DATA.length := by
  decide

theorem witness_KeyxOfWrongLength :
    (State.resetFor oneRound).PHASE = .idle ∧ 2 ≠ (State.resetFor oneRound).cfg.b ∧ 2 ≠ 0 ∧
      0 ≠ (State.resetFor oneRound).cfg.b := by decide

theorem witness_KeyxOfValidLength :
    (State.resetFor oneRound).PHASE = .idle ∧ (State.resetFor oneRound).cfg.b ≠ 0 ∧
      (State.resetFor small).PHASE = .idle ∧ (State.resetFor small).cfg.b = 0 := by decide

theorem witness_KeyxByteGoesToItsLane :
    (let s := { inPay (State.resetFor wide) (.keyx 3) 1 [0xAA#8] with L := [some 0x0011, some 0] };
      s.PHASE = .pay ∧ s.RXCNT = some 1 ∧ entry s.L (1 / s.cfg.u) = some 0x0011 ∧
        s.offered 0xAA#8 [] ∧ 1 + 1 ≠ 3) ∧
      (let s := { inPay (State.resetFor wide) (.keyx 3) 2 [0xAA#8] with L := [some 0x2211, some 0] };
        s.PHASE = .pay ∧ s.RXCNT = some 2 ∧ entry s.L (2 / s.cfg.u) = some 0 ∧
          s.offered 0xAA#8 [] ∧ 2 + 1 = 3) := by decide

theorem witness_KeyxInitStep :
    (let s := inInit (State.resetFor oneRound) [some 0xB7, none, none, none] [0x00] 1;
      s.PHASE = .kxInit ∧ s.i = some 1 ∧ entry s.S (1 - 1) = some 0xB7 ∧ s.cfg.magicQ = some 0x9F ∧
        1 + 1 ≠ s.cfg.t) ∧
      (let s := inInit (State.resetFor oneRound) [some 0xB7, some 0x56, some 0xF5, none] [0x00] 3;
        s.PHASE = .kxInit ∧ s.i = some 3 ∧ entry s.S (3 - 1) = some 0xF5 ∧
          s.cfg.magicQ = some 0x9F ∧ 3 + 1 = s.cfg.t) := by decide

theorem witness_KeyxMixStep :
    (let s := inMix (State.resetFor small) [0xB7, 0x56] [0x00] 0 0 0;
      s.PHASE = .kxMix ∧ s.i = some 0 ∧ s.j = some 0 ∧ s.k = some 0 ∧ s.A = some 0 ∧ s.B = some 0 ∧
        entry s.S 0 = some 0xB7 ∧ entry s.L 0 = some 0x00 ∧
        0 + 1 ≠ 3 * max (2 * (s.cfg.r + 1)) s.cfg.c) ∧
      (let s := inMix (State.resetFor small) [0xB7, 0x56] [0x11] 0x22 0x11 5;
        s.PHASE = .kxMix ∧ s.i = some 1 ∧ s.j = some 0 ∧ s.k = some 5 ∧ s.A = some 0x22 ∧
          s.B = some 0x11 ∧ entry s.S 1 = some 0x56 ∧ entry s.L 0 = some 0x11 ∧
          5 + 1 = 3 * max (2 * (s.cfg.r + 1)) s.cfg.c) := by decide

/-- The hypotheses of PackIsTheByteLaneLayout, ArrivalPlacementGivesPack and ExpandGivesAFullSchedule,
with b = 0 and with b no multiple of u. -/
theorem witness_key_of_b_bytes :
    (small.legal = true ∧ ([] : List Byte).length = small.b ∧ 0 < small.c) ∧
      (wide.legal = true ∧ [0x01#8, 0x02#8, 0x03#8].length = wide.b ∧ 1 < wide.c) := by decide

/-- A legal configuration of each width with its row of R7's table. -/
theorem witness_InitGivesTheArithmeticSequence :
    ∀ row ∈ [((8, 0xB7, 0x9F) : Nat × Word × Word), (16, 0xB7E1, 0x9E37),
      (32, 0xB7E15163, 0x9E3779B9), (64, 0xB7E151628AED2A6B, 0x9E3779B97F4A7C15)],
      Config.legal ⟨row.1, 0, 0⟩ = true ∧ 1 < Config.t ⟨row.1, 0, 0⟩ ∧
        ((⟨row.1, 0, 0⟩ : Config).w, row.2.1, row.2.2) ∈
          [(8, 0xB7, 0x9F), (16, 0xB7E1, 0x9E37), (32, 0xB7E15163, 0x9E3779B9),
            (64, 0xB7E151628AED2A6B, 0x9E3779B97F4A7C15)] := by decide

theorem witness_NamedConfigurationsAreThoseOfTheTable :
    (64 = 8 ∨ 64 = 16 ∨ 64 = 32 ∨ 64 = 64) ∧ 255 ≤ 255 := by decide

theorem witness_MixIndexSequence :
    ∃ m m', mixLoop small 5 (mixStart [some 0xB7, some 0x56] [some 0x00]) = some m ∧
      mixIteration small m = some m' ∧ m.i = 1 ∧ m.j = 0 :=
  ⟨_, _, rfl, rfl, rfl, rfl⟩

theorem witness_BlockCommandHeaderChecks :
    (State.resetFor small).PHASE = .idle ∧ 1 ≠ (State.resetFor small).cfg.blockBytes ∧ 1 ≠ 0 ∧
      0 ≠ (State.resetFor small).cfg.blockBytes ∧ 2 = (State.resetFor small).cfg.blockBytes ∧
      (State.resetFor small).KEYED = false ∧ (keyedWith small [2, 3]).PHASE = .idle ∧
      2 = (keyedWith small [2, 3]).cfg.blockBytes ∧ (keyedWith small [2, 3]).KEYED = true := by decide

theorem witness_BlockByteGoesToItsLane :
    (let s := { inPay (keyedWith wide [2, 3]) (.enc 4) 1 [0xAA#8] with A := some 0x11, B := some 0 };
      s.PHASE = .pay ∧ s.RXCNT = some 1 ∧ s.A = some 0x11 ∧ s.B = some 0 ∧ s.offered 0xAA#8 [] ∧
        1 + 1 ≠ 4 ∧ 1 < s.cfg.u) ∧
      (let s := { inPay (keyedWith wide [2, 3]) (.dec 4) 2 [0xAA#8] with A := some 0x11, B := some 0 };
        s.PHASE = .pay ∧ s.RXCNT = some 2 ∧ s.A = some 0x11 ∧ s.B = some 0 ∧ s.offered 0xAA#8 [] ∧
          2 + 1 ≠ 4 ∧ s.cfg.u ≤ 2) := by decide

theorem witness_EncPreWhitening :
    ∀ p ∈ [(small, [2, 3]), (oneRound, [2, 3, 4, 5])],
      let s := { inPay (keyedWith p.1 p.2) (.enc 2) 1 [0x10#8] with A := some 0xFF, B := some 0 };
      s.PHASE = .pay ∧ s.RXCNT = some 1 ∧ 1 + 1 = 2 ∧ s.A = some 0xFF ∧ s.B = some 0 ∧
        entry s.S 0 = some 2 ∧ entry s.S 1 = some 3 ∧ s.offered 0x10#8 [] ∧
        (s.cfg.r = 0 ↔ p.1 = small) := by decide

theorem witness_EncRoundStep :
    ∀ n ∈ [1, 2],
      let s := inRound (keyedWith ⟨8, 2, 0⟩ [0, 1, 2, 3, 4, 5]) .enRun (.enc 2) n 0x01 0x09;
      s.PHASE = .enRun ∧ s.rnd = some n ∧ s.A = some 0x01 ∧ s.B = some 0x09 ∧
        entry s.S (2 * n) = some (2 * n) ∧ entry s.S (2 * n + 1) = some (2 * n + 1) ∧
        (n = s.cfg.r ↔ n = 2) := by decide

theorem witness_DecEntry :
    ∀ p ∈ [(small, [2, 3]), (oneRound, [2, 3, 4, 5])],
      let s := { inPay (keyedWith p.1 p.2) (.dec 2) 1 [0x10#8] with A := some 0xFF, B := some 0 };
      s.PHASE = .pay ∧ s.RXCNT = some 1 ∧ 1 + 1 = 2 ∧ s.A = some 0xFF ∧ s.B = some 0 ∧
        entry s.S 0 = some 2 ∧ entry s.S 1 = some 3 ∧ s.offered 0x10#8 [] ∧
        (s.cfg.r = 0 ↔ p.1 = small) := by decide

theorem witness_DecRoundStep :
    ∀ n ∈ [0, 1],
      let s := inRound (keyedWith ⟨8, 2, 0⟩ [0, 1, 2, 3, 4, 5]) .deRun (.dec 2) (n + 1) 0x01 0x09;
      s.PHASE = .deRun ∧ s.rnd = some (n + 1) ∧ s.A = some 0x01 ∧ s.B = some 0x09 ∧
        entry s.S (2 * (n + 1)) = some (2 * n + 2) ∧
        entry s.S (2 * (n + 1) + 1) = some (2 * n + 3) ∧ entry s.S 0 = some 0 ∧
        entry s.S 1 = some 1 := by decide

theorem witness_DecryptInvertsEncrypt :
    wide.legal = true ∧ [0x01#8, 0x02#8, 0x03#8].length = wide.b ∧
      [0x0A#8, 0x0B#8, 0x0C#8, 0x0D#8].length = wide.blockBytes ∧ oneRound.legal = true ∧
      [0x01#8].length = oneRound.b ∧ [0x0A#8, 0x0B#8].length = oneRound.blockBytes ∧
      0 < oneRound.r ∧ Word.fits oneRound.w 0xFF ∧ Word.fits oneRound.w 0x00 := by decide

theorem witness_ZeroRoundsOnlyWhiten :
    small.r = 0 ∧ entry (keyedWith small [2, 3]).S 0 = some 2 ∧
      entry (keyedWith small [2, 3]).S 1 = some 3 ∧ (sending []).cfg.r = 0 ∧
      (sending []).PHASE ≠ .enRun ∧ (sending []).PHASE ≠ .deRun ∧ ∃ t, step (sending []) = .next t :=
  ⟨by decide, by decide, by decide, by decide, by decide, by decide, _, rfl⟩

theorem witness_MarshallerLaws :
    0xFFFF < 2 ^ (8 * 2) ∧ [0x01#8, 0x02#8].length = 2 ∧
      [0x01#8, 0x02#8, 0x03#8, 0x04#8].length = 2 * 2 := by decide

theorem witness_BlockLoaderGivesBlockToWords : [0x01#8, 0x02#8].length = 2 * 1 := by decide

/-- The hypotheses of WordDatapathLaws, RotationsMoveBits and WrappedSumRotatesAlike, with amounts 0,
w and w - 1 modulo w. -/
theorem witness_words :
    8 ∈ [8, 16, 32, 64] ∧ 64 ∈ [8, 16, 32, 64] ∧ Word.fits 8 0xFF ∧ Word.fits 8 0x08 ∧
      Word.fits 8 0x00 ∧ 7 < 8 ∧ 0x08 % 8 = 0 := by decide

theorem witness_DrainDiscardsAndAnswers :
    ∀ n ∈ [0, 1],
      let s := inDrain (State.resetFor small) (.keyx 2) 0x01#8 n [0xAA#8];
      s.PHASE = .drain ∧ s.RXCNT = some n ∧ commandWord s = some 0x00020001#32 ∧
        s.ST = some 0x01#8 ∧ s.offered 0xAA#8 [] ∧ (n + 1 = lenOf 0x00020001#32 ↔ n = 1) := by decide

theorem witness_ResponseBytesAreTakenInOrder :
    (let s := inResp (State.resetFor small) [0x01#8, 0x13#8] 0;
      s.PHASE = .resp ∧ s.TXCNT = some 0 ∧ s.RLEN = some 2 ∧ hostTakes s = true ∧
        s.ST = some 0x00#8) ∧
      (let s := inResp (State.resetFor small) [0x01#8, 0x13#8] 2;
        s.PHASE = .resp ∧ s.TXCNT = some 2 ∧ s.RLEN = some 2 ∧ hostTakes s = true ∧
          entry s.DATA 1 = some 0x13#8) := by decide

theorem witness_NoCommandByteIsTakenWhileBusy :
    let s := inMix (sending [0x01#8]) [0xB7, 0x56] [0x00] 0 0 0
    s.PHASE.busy ∧ ∃ t, step s = .next t := ⟨by decide, _, rfl⟩

theorem witness_WaitingChangesNoRegister :
    (let s := inPay (keyedWith small [2, 3]) (.enc 2) 0 [];
      s.running ∧ s.PHASE = .pay ∧ currentInstr s = some (.enc 2) ∧ s.host.cmd = []) ∧
      (let s := { sending [0x01#8] with
          host := { HostAgent.silent with cmd := [0x01#8], moves := [.turn false true] } };
        s.running ∧ s.PHASE = .idle ∧ hostOffers s = false) ∧
      (let s := inDrain (State.resetFor small) (.keyx 2) 0x01#8 0 [];
        s.running ∧ s.PHASE = .drain ∧ s.host.cmd = []) ∧
      (let s := inResp { State.resetFor small with host := { HostAgent.silent with takes := false } }
          [0x01#8, 0x13#8] 2;
        s.running ∧ s.PHASE = .resp ∧ hostTakes s = false) := by decide

/-! ### Witnesses of the invariants -/

/-- The reset state of RC5-8/0/0 meets the invariant, whatever the host has to send. -/
theorem witness_inv_idle (cmd : List Byte) : (sending cmd).Inv :=
  inv_withHost (s := State.resetFor small)
    { shape := by decide
      range := by decide
      keyed := by decide
      noNoValue := by decide
      idle := fun _ => ⟨by rintro o ⟨⟩, noneValued_replicate _, rfl, rfl, rfl, rfl, rfl, rfl⟩
      pay := by intro h; cases h
      drain := by intro h; cases h
      kxInit := by intro h; cases h
      kxMix := by intro h; cases h
      enRun := by intro h; cases h
      deRun := by intro h; cases h
      resp := by intro h; cases h } _

/-- The keyed core of RC5-8/0/0 whose schedule is Expand of the empty key. -/
def keyedSmall : State := keyedWith small [0xC6, 0x34]

theorem witness_inv_keyed : keyedSmall.Inv := by
  constructor
  case idle => exact fun _ => ⟨by rintro o ⟨⟩, noneValued_replicate _, rfl, rfl, rfl, rfl, rfl, rfl⟩
  all_goals decide

theorem witness_inv_init : (inInit (State.resetFor small) [some 0xB7, none] [0x00] 1).Inv := by
  constructor
  case kxInit => exact fun _ => ⟨⟨1, rfl, by decide⟩, by decide⟩
  all_goals decide

theorem witness_inv_mix : (inMix (State.resetFor small) [0xB7, 0x56] [0x00] 0 0 0).Inv := by
  constructor
  case kxMix => exact fun _ => ⟨⟨0, rfl, by decide⟩, by decide⟩
  all_goals decide

/-- A keyed core of RC5-8/1/1 in the round of an ENC. -/
def inEncRound : State :=
  inRound (keyedWith oneRound [0x86, 0xD5, 0x8E, 0x81]) .enRun (.enc 2) 1 0x01 0x09

/-- A keyed core of RC5-8/1/1 in the round of a DEC. -/
def inDecRound : State :=
  inRound (keyedWith oneRound [0x86, 0xD5, 0x8E, 0x81]) .deRun (.dec 2) 1 0x01 0x09

theorem witness_inv_enc : inEncRound.Inv := by
  constructor
  case enRun =>
    exact fun _ => ⟨⟨1, rfl, by decide⟩, rfl, rfl, rfl, noneValued_replicate _, rfl, rfl, rfl⟩
  all_goals decide

theorem witness_inv_dec : inDecRound.Inv := by
  constructor
  case deRun =>
    exact fun _ => ⟨⟨1, rfl, by decide⟩, rfl, rfl, rfl, noneValued_replicate _, rfl, rfl, rfl⟩
  all_goals decide

/-- The keyed core of RC5-8/0/0 with an OK response to take, n bytes of it taken. -/
def responding (n : Nat) (host : HostAgent) : State :=
  { inResp keyedSmall [0x01#8, 0x13#8] n with RXCNT := some 2, host := host }

theorem witness_inv_resp (host : HostAgent) : (responding 1 host).Inv :=
  inv_withHost (s := responding 1 HostAgent.silent) (by
    constructor
    case resp =>
      exact fun _ => ⟨rfl, ⟨1, rfl, 2, rfl, by decide, by rintro o ho; fin_cases ho <;> rfl,
        .inr ⟨rfl, rfl⟩⟩, noneValued_replicate _, rfl, rfl, rfl, rfl, rfl, rfl⟩
    all_goals decide) host

theorem witness_InternalStepsNeedNoHost :
    (inInit (State.resetFor small) [some 0xB7, none] [0x00] 1).Inv ∧
      (inInit (State.resetFor small) [some 0xB7, none] [0x00] 1).running ∧
      (inInit (State.resetFor small) [some 0xB7, none] [0x00] 1).PHASE.internal ∧
      (inMix (State.resetFor small) [0xB7, 0x56] [0x00] 0 0 0).Inv ∧
      (inMix (State.resetFor small) [0xB7, 0x56] [0x00] 0 0 0).running ∧
      (inMix (State.resetFor small) [0xB7, 0x56] [0x00] 0 0 0).PHASE.internal ∧
      inEncRound.Inv ∧ inEncRound.running ∧ inEncRound.PHASE.internal ∧
      inDecRound.Inv ∧ inDecRound.running ∧ inDecRound.PHASE.internal :=
  ⟨witness_inv_init, by decide, by decide, witness_inv_mix, by decide, by decide,
    witness_inv_enc, by decide, by decide, witness_inv_dec, by decide, by decide⟩

/-- A host that takes no response byte any more. -/
def deaf : HostAgent := { HostAgent.silent with takes := false }

theorem witness_StandingStillIsStuckOrFinished :
    ((sending []).Inv ∧ (sending []).FAULT = none ∧ (sending []).REFUSED = none ∧
      (sending []).finished ∧ (sending []).host.moves = []) ∧
      ((responding 1 deaf).Inv ∧ (responding 1 deaf).FAULT = none ∧
        (responding 1 deaf).REFUSED = none ∧ (responding 1 deaf).stuck) ∧
      (sending [0x01#8]).Inv ∧ ¬ (sending [0x01#8]).finished ∧ ¬ (sending [0x01#8]).stuck :=
  ⟨⟨witness_inv_idle _, by decide⟩, ⟨witness_inv_resp _, by decide⟩, witness_inv_idle _, by decide,
    by decide⟩

theorem witness_NoStepChangesTheConfiguration : ∃ t, step (sending [0x01#8]) = .next t := ⟨_, rfl⟩

theorem witness_OnlyKeyxAndResetWriteTheSchedule :
    (∃ t, step (inMix (State.resetFor small) [0xB7, 0x56] [0x00] 0 0 0) = .next t ∧
      t.S ≠ [some 0xB7, some 0x56]) ∧
      (∃ t, step { keyedSmall with host := { HostAgent.silent with moves := [.reset] } } = .next t ∧
        t.S ≠ keyedSmall.S) ∧
      ∃ t, step (atFourth keyedSmall 0x01#8 0x00#8 0x00#8 0x00#8) = .next t ∧ t.S ≠ keyedSmall.S ∧
        t.PHASE = .kxInit :=
  ⟨⟨_, rfl, by decide⟩, ⟨_, rfl, by decide⟩, _, rfl, by decide, rfl⟩

theorem witness_KeyedHasTheseWritersOnly :
    (∃ t, step (inMix (State.resetFor small) [0xB7, 0x56] [0x11] 0x22 0x11 5) = .next t ∧
      t.KEYED ≠ false) ∧
      (∃ t, step { keyedSmall with host := { HostAgent.silent with moves := [.reset] } } = .next t ∧
        t.KEYED ≠ true) ∧
      ∃ t, step (atFourth keyedSmall 0x01#8 0x00#8 0x00#8 0x00#8) = .next t ∧ t.KEYED ≠ true :=
  ⟨⟨_, rfl, by decide⟩, ⟨_, rfl, by decide⟩, _, rfl, by decide⟩

/-- A next state of a KEYX from each of its phases, to RESP and not. -/
theorem witness_KeyxFrame :
    (∃ t, exec (.keyx 0) keyedSmall = .next t ∧ t.PHASE ≠ .resp) ∧
      (∃ t, exec (.keyx 0) (State.resetFor oneRound) = .next t ∧ t.PHASE = .resp) ∧
      (∃ t, exec (.keyx 3)
        { inPay (State.resetFor wide) (.keyx 3) 2 [0xAA#8] with L := [some 0x2211, some 0] } =
          .next t ∧ t.PHASE = .kxInit) ∧
      (∃ t, exec (.keyx 2) (inDrain (State.resetFor small) (.keyx 2) 0x01#8 0 [0xAA#8]) = .next t ∧
        t.PHASE ≠ .resp) ∧
      (∃ t, exec (.keyx 0) (inInit (State.resetFor small) [some 0xB7, none] [0x00] 1) = .next t ∧
        t.PHASE = .kxMix) ∧
      (∃ t, exec (.keyx 0) (inMix (State.resetFor small) [0xB7, 0x56] [0x00] 0 0 0) = .next t ∧
        t.PHASE ≠ .resp ∧ entry t.S 0 ≠ some 0xB7) ∧
      ∃ t, exec (.keyx 0) (responding 1 HostAgent.silent) = .next t ∧
        t.host.got ≠ (responding 1 HostAgent.silent).host.got :=
  ⟨⟨_, rfl, by decide⟩, ⟨_, rfl, by decide⟩, ⟨_, rfl, by decide⟩, ⟨_, rfl, by decide⟩,
    ⟨_, rfl, by decide⟩, ⟨_, rfl, by decide⟩, _, rfl, by decide⟩

/-- A next state of an ENC or DEC from each of its phases, to RESP and not. -/
theorem witness_EncAndDecFrame :
    (∃ t, exec (.enc 2) keyedSmall = .next t ∧ t.PHASE = .pay) ∧
      (∃ t, exec (.dec 0) keyedSmall = .next t ∧ t.PHASE = .resp) ∧
      (∃ t, exec (.enc 2) (State.resetFor small) = .next t ∧ t.FAULT = some .unkeyed) ∧
      (∃ t, exec (.enc 2) { inPay keyedSmall (.enc 2) 0 [0xAA#8] with A := some 0, B := some 0 } =
        .next t ∧ t.PHASE = .pay) ∧
      (∃ t, exec (.dec 1) (inDrain keyedSmall (.dec 1) 0x02#8 0 [0xAA#8]) = .next t ∧
        t.PHASE = .resp) ∧
      (∃ t, exec (.enc 2) inEncRound = .next t ∧ t.PHASE = .resp) ∧
      (∃ t, exec (.dec 2) inDecRound = .next t ∧ t.PHASE = .resp) ∧
      ∃ t, exec (.dec 2) (responding 1 HostAgent.silent) = .next t ∧ t.PHASE = .resp :=
  ⟨⟨_, rfl, by decide⟩, ⟨_, rfl, by decide⟩, ⟨_, rfl, by decide⟩, ⟨_, rfl, by decide⟩,
    ⟨_, rfl, by decide⟩, ⟨_, rfl, by decide⟩, ⟨_, rfl, by decide⟩, _, rfl, by decide⟩

theorem witness_EveryStepKeepsTheInvariant :
    (sending [0x01#8]).Inv ∧ (∃ t, step (sending [0x01#8]) = .next t) ∧ inEncRound.Inv ∧
      ∃ t, step inEncRound = .next t :=
  ⟨witness_inv_idle _, ⟨_, rfl⟩, witness_inv_enc, _, rfl⟩

theorem witness_ResetMeetsTheInvariant : Config.rc5_32_12_16.legal = true ∧ small.legal = true := by
  decide

theorem witness_EveryStepKeepsTheScheduleInvariant :
    keyedSmall.Inv ∧ keyedSmall.ScheduleInv ∧ ∃ t, step keyedSmall = .next t :=
  ⟨witness_inv_keyed,
    ⟨fun _ => ⟨[], rfl, rfl⟩, fun h => (by cases h), fun h => (by cases h), fun h => (by cases h)⟩,
    _, rfl⟩

/-! ### Witnesses of the statements about whole frames -/

/-- The keyed core of RC5-8/0/0 at a boundary, with bytes to send. -/
def keyedSending (cmd : List Byte) : State := { keyedSmall with host := { HostAgent.silent with cmd := cmd } }

theorem witness_boundary (cmd : List Byte) : (sending cmd).boundary cmd :=
  ⟨witness_inv_idle cmd, rfl, rfl, rfl, rfl, rfl, rfl, rfl⟩

theorem witness_boundary_keyed (cmd : List Byte) : (keyedSending cmd).boundary cmd :=
  ⟨inv_withHost witness_inv_keyed _, rfl, rfl, rfl, rfl, rfl, rfl, rfl⟩

theorem witness_KeyxFrameExpandsTheKey :
    ([] : List Byte).length = (State.resetFor small).cfg.b ∧
      (sending (encode (.keyx 0) ++ [] ++ [0x02#8])).boundary (encode (.keyx 0) ++ [] ++ [0x02#8]) :=
  ⟨rfl, witness_boundary _⟩

theorem witness_BlockFrameGivesTheCipherBlock :
    [0x00#8, 0x01#8].length = keyedSmall.cfg.blockBytes ∧ keyedSmall.KEYED = true ∧
      (keyedSending (encode (.enc 2) ++ [0x00#8, 0x01#8] ++ [])).boundary
        (encode (.enc 2) ++ [0x00#8, 0x01#8] ++ []) ∧
      (keyedSending (encode (.dec 2) ++ [0x00#8, 0x01#8] ++ [])).boundary
        (encode (.dec 2) ++ [0x00#8, 0x01#8] ++ []) :=
  ⟨rfl, rfl, witness_boundary_keyed _, witness_boundary_keyed _⟩

theorem witness_WrongLengthFrameIsAnsweredAndDrained :
    (Instr.keyx 1).wellFormed ∧ [0xAA#8].length = (Instr.keyx 1).len ∧
      (Instr.keyx 1).len ≠ (State.resetFor small).cfg.b ∧
      (sending (encode (.keyx 1) ++ [0xAA#8] ++ [])).boundary (encode (.keyx 1) ++ [0xAA#8] ++ []) ∧
      Instr.enc 0 ≠ .keyx (Instr.enc 0).len ∧
      (Instr.enc 0).len ≠ (State.resetFor small).cfg.blockBytes ∧
      (sending (encode (.enc 0) ++ [] ++ [])).boundary (encode (.enc 0) ++ [] ++ []) :=
  ⟨by decide, rfl, by decide, witness_boundary _, by decide, by decide, witness_boundary _⟩

/-- StepLevelAgreesWithCommandLevel: a frame that is done, and one that faults. -/
theorem witness_StepLevelAgreesWithCommandLevel :
    (Instr.keyx 0).wellFormed ∧ ([] : List Byte).length = (Instr.keyx 0).len ∧
      (sending (encode (.keyx 0) ++ [] ++ [])).boundary (encode (.keyx 0) ++ [] ++ []) ∧
      (∃ S response, execCommand small (State.resetFor small).S false (encodeWord (.keyx 0)) [] =
        .done S true response) ∧
      (Instr.enc 2).wellFormed ∧ [0x00#8, 0x01#8].length = (Instr.enc 2).len ∧
      (sending (encode (.enc 2) ++ [0x00#8, 0x01#8] ++ [])).boundary
        (encode (.enc 2) ++ [0x00#8, 0x01#8] ++ []) ∧
      execCommand small (State.resetFor small).S false (encodeWord (.enc 2)) [0x00#8, 0x01#8] =
        .fault .unkeyed :=
  ⟨by decide, rfl, witness_boundary _, ⟨_, _, rfl⟩, by decide, rfl, witness_boundary _, rfl⟩

theorem witness_CipherDependsOnScheduleAndBlockOnly :
    [0x00#8, 0x01#8].length = keyedSmall.cfg.blockBytes ∧ keyedSmall.KEYED = true ∧
      (keyedSending (encode (.enc 2) ++ [0x00#8, 0x01#8] ++ [])).boundary
        (encode (.enc 2) ++ [0x00#8, 0x01#8] ++ []) ∧
      (keyedSending (encode (.enc 2) ++ [0x00#8, 0x01#8] ++ [0x07#8])).boundary
        (encode (.enc 2) ++ [0x00#8, 0x01#8] ++ [0x07#8]) ∧
      (∃ t, Host.Core.run core (4 + 2 + 0 + (1 + 2))
        (keyedSending (encode (.enc 2) ++ [0x00#8, 0x01#8] ++ [])) = .next t) ∧
      ∃ t, Host.Core.run core (4 + 2 + 0 + (1 + 2))
        (keyedSending (encode (.enc 2) ++ [0x00#8, 0x01#8] ++ [0x07#8])) = .next t :=
  ⟨rfl, rfl, witness_boundary_keyed _, witness_boundary_keyed _, ⟨_, rfl⟩, _, rfl⟩

/-- The reset state of RC5-8/0/1 with a KEYX frame of the key k to send. -/
def keying (k : Byte) : State :=
  { State.resetFor ⟨8, 0, 1⟩ with
    host := { HostAgent.silent with cmd := encode (.keyx 1) ++ [k] ++ [] } }

theorem witness_KeyLeavesNoTraceButTheSchedule :
    [0xAA#8].length = (keying 0xAA#8).cfg.b ∧ [0xBB#8].length = (keying 0xAA#8).cfg.b ∧
      (keying 0xAA#8).boundary (encode (.keyx 1) ++ [0xAA#8] ++ []) ∧
      (∃ t, Host.Core.run core (4 + 1 + (2 - 1) + 6 + 1) (keying 0xAA#8) = .next t) ∧
      ∃ t, Host.Core.run core (4 + 1 + (2 - 1) + 6 + 1)
        ((keying 0xAA#8).received (encode (.keyx 1) ++ [0xBB#8] ++ [])) = .next t := by
  refine ⟨rfl, rfl, ⟨inv_withHost (s := State.resetFor ⟨8, 0, 1⟩) ?_ _, rfl, rfl, rfl, rfl, rfl, rfl,
    rfl⟩, ⟨_, rfl⟩, _, rfl⟩
  constructor
  case idle => exact fun _ => ⟨by rintro o ⟨⟩, noneValued_replicate _, rfl, rfl, rfl, rfl, rfl, rfl⟩
  all_goals decide

end Sys2Proof.Tests
end

section
/-! PROOFS. Parameters: the named configurations (R8), the ranges of R5, and Init's closed form
(R125). -/

namespace Sys2Proof.Machine

variable {cfg : Config} {S : List (Option Word)} {p q : Word}

/-- The legal triples are those in the ranges of R5. -/
theorem legal_iff {w r b : Nat} : (⟨w, r, b⟩ : Config).legal = true ↔
    (w = 8 ∨ w = 16 ∨ w = 32 ∨ w = 64) ∧ r ≤ 255 ∧ b ≤ 255 := by
  simp [Config.legal, or_assoc, and_assoc]

/-- A row of R7's table is the pair of magic constants of its width. -/
theorem magic_of_row (h : (cfg.w, p, q) ∈ [(8, 0xB7, 0x9F), (16, 0xB7E1, 0x9E37),
    (32, 0xB7E15163, 0x9E3779B9), (64, 0xB7E151628AED2A6B, 0x9E3779B97F4A7C15)]) :
    cfg.magicP = some p ∧ cfg.magicQ = some q := by
  simp only [List.mem_cons, Prod.mk.injEq, List.not_mem_nil, or_false] at h
  rcases h with ⟨hw, rfl, rfl⟩ | ⟨hw, rfl, rfl⟩ | ⟨hw, rfl, rfl⟩ | ⟨hw, rfl, rfl⟩ <;>
    simp [Config.magicP, Config.magicQ, hw]

/-- One Init iteration writes S[n] = S[n-1] +w Q_w (R125). -/
theorem initIteration_eq {n : Nat} {x : Word} (hx : entry S (n - 1) = some x)
    (hq : cfg.magicQ = some q) :
    initIteration cfg n S = some (S.set n (some (addW cfg.w x q))) := by
  simp [initIteration, hx, hq]

/-- After the indices 1, ..., m of Init's loop, the entries 0, ..., m are the arithmetic
sequence. -/
theorem initLoop_arithmetic (hp : entry S 0 = some (p % 2 ^ cfg.w)) (hq : cfg.magicQ = some q)
    (m : Nat) (hm : m < S.length) :
    ∃ S', initLoop cfg m S = some S' ∧ S'.length = S.length ∧
      ∀ n, n ≤ m → entry S' n = some ((p + n * q) % 2 ^ cfg.w) := by
  induction m with
  | zero =>
    refine ⟨S, rfl, rfl, fun n hn => ?_⟩
    obtain rfl := Nat.le_zero.1 hn
    simpa using hp
  | succ m ih =>
    obtain ⟨T, hT, hlen, hent⟩ := ih (by omega)
    have hstep := initIteration_eq (n := m + 1) (hent m le_rfl) hq
    refine ⟨_, by simp [initLoop, hT, hstep]; rfl, by simpa using hlen, fun n hn => ?_⟩
    rcases Nat.le_succ_iff.1 hn with hn | rfl
    · rw [entry_set_other _ (by omega), hent n hn]
    · rw [entry_set_self _ (by omega), addW, Nat.mod_add_mod, Nat.succ_mul, Nat.add_assoc]

/-- Settles O60: the rows are evaluated one by one, and the ranges are those of `legal_iff`. -/
theorem namedConfigurationsAreThoseOfTheTable :
    Obligations.NamedConfigurationsAreThoseOfTheTable := by
  refine ⟨?_, fun w r b hw hr hb => legal_iff.2 ⟨hw, hr, hb⟩⟩
  decide

/-- Settles O22, by `initLoop_arithmetic` at the last index t - 1. -/
theorem initGivesTheArithmeticSequence : Obligations.InitGivesTheArithmeticSequence := by
  intro cfg p q hlegal hrow
  obtain ⟨hp, hq⟩ := magic_of_row hrow
  obtain ⟨p', hp', hfit⟩ := magicP_fits hlegal
  obtain rfl : p = p' := Option.some.inj (hp.symm.trans hp')
  have ht := two_le_t cfg
  have h0 : entry ((List.replicate cfg.t none).set 0 cfg.magicP) 0 = some (p % 2 ^ cfg.w) := by
    rw [entry_set_self _ (by simp; omega), hp, Nat.mod_eq_of_lt hfit]
  obtain ⟨S, hS, hlen, hent⟩ := initLoop_arithmetic h0 hq (cfg.t - 1) (by simp; omega)
  exact ⟨hp, hq, S, hS, by simpa using hlen, fun n hn => hent n (by omega)⟩

end Sys2Proof.Machine
end

section
/-! PROOFS. The frame of every step: the configuration is never written (R5), and no step of a legal
core refuses it (R235). -/

namespace Sys2Proof.Machine

variable {s t : State}

/-- t is a state of the core that s is a state of, and no refusal came between them. -/
def SameCore (s t : State) : Prop := t.cfg = s.cfg ∧ t.REFUSED = s.REFUSED

/-! ### KEYX -/

theorem lengthError_sameCore (st : Byte) (len : Nat) (s : State) :
    SameCore s (lengthError st len s) := by
  rcases lengthError_cases st len s with ⟨-, h⟩ | ⟨-, h⟩ <;> rw [h] <;> exact ⟨rfl, rfl⟩

theorem keyxHeader_sameCore {len : Nat} (h : keyxHeader len s = .next t) : SameCore s t := by
  rcases keyxHeader_cases h with ⟨-, rfl⟩ | ⟨-, -, rfl⟩ | ⟨-, -, rfl⟩
  · exact lengthError_sameCore ..
  · exact ⟨rfl, rfl⟩
  · exact ⟨rfl, rfl⟩

theorem keyxByte_sameCore {len : Nat} {v : Byte} (h : keyxByte len v s = .next t) :
    SameCore s t := by
  rcases keyxByte_cases h with ⟨_, _, -, -, ⟨-, rfl⟩ | ⟨-, rfl⟩⟩ | rfl <;> exact ⟨rfl, rfl⟩

theorem kxInitStep_sameCore (h : kxInitStep s = .next t) : SameCore s t := by
  rcases kxInitStep_cases h with ⟨_, _, -, -, ⟨-, rfl⟩ | ⟨-, rfl⟩⟩ | rfl <;> exact ⟨rfl, rfl⟩

theorem kxMixStep_sameCore (h : kxMixStep s = .next t) : SameCore s t := by
  rcases kxMixStep_cases h with
    ⟨_, _, _, _, _, _, -, -, -, -, -, -, ⟨-, rfl⟩ | ⟨-, rfl⟩⟩ | rfl <;> exact ⟨rfl, rfl⟩

/-! ### ENC and DEC -/

theorem blockHeader_sameCore {len : Nat} (h : blockHeader len s = .next t) : SameCore s t := by
  rcases blockHeader_cases h with ⟨-, rfl⟩ | ⟨-, -, rfl⟩ | ⟨-, -, rfl⟩
  · exact lengthError_sameCore ..
  · exact ⟨rfl, rfl⟩
  · exact ⟨rfl, rfl⟩

theorem encEntry_sameCore {ab : Word × Word} (h : encEntry s ab = some t) : SameCore s t := by
  obtain ⟨_, -, ⟨-, rfl⟩ | ⟨-, rfl⟩⟩ := encEntry_cases h <;> exact ⟨rfl, rfl⟩

theorem decEntry_sameCore {ab : Word × Word} (h : decEntry s ab = some t) : SameCore s t := by
  rcases decEntry_cases h with ⟨-, rfl⟩ | ⟨-, _, -, rfl⟩ <;> exact ⟨rfl, rfl⟩

theorem blockByte_sameCore {entered : State → Word × Word → Option State} {len : Nat} {v : Byte}
    (hentered : ∀ {s t ab}, entered s ab = some t → SameCore s t)
    (h : blockByte entered len v s = .next t) : SameCore s t := by
  rcases blockByte_cases h with ⟨_, _, _, -, -, -, ⟨-, rfl⟩ | ⟨-, ht⟩⟩ | rfl
  · exact ⟨rfl, rfl⟩
  · have hframe := hentered ht
    exact hframe
  · exact ⟨rfl, rfl⟩

theorem enRunStep_sameCore (h : enRunStep s = .next t) : SameCore s t := by
  rcases enRunStep_cases h with ⟨_, _, _, _, -, -, -, -, ⟨-, rfl⟩ | ⟨-, rfl⟩⟩ | rfl <;>
    exact ⟨rfl, rfl⟩

theorem deRunStep_sameCore (h : deRunStep s = .next t) : SameCore s t := by
  rcases deRunStep_cases h with ⟨_, _, _, _, -, -, -, -, ⟨-, rfl⟩ | ⟨-, _, -, rfl⟩⟩ | rfl <;>
    exact ⟨rfl, rfl⟩

/-! ### The shared steps, the phases and the commands -/

theorem drainByte_sameCore {v : Byte} (h : drainByte v s = .next t) : SameCore s t := by
  rcases drainByte_cases h with ⟨_, _, -, -, ⟨-, rfl⟩ | ⟨-, _, -, rfl⟩⟩ | rfl <;> exact ⟨rfl, rfl⟩

theorem respStep_sameCore (h : respStep s = .next t) : SameCore s t := by
  rcases respStep_cases h with ⟨-, rfl⟩ | ⟨_, _, _, -, -, -, -, rfl⟩ | rfl <;> exact ⟨rfl, rfl⟩

/-- A step that receives a byte waits, or does what f does to the byte and the shortened stream. -/
theorem recvByte_eq_next {f : Byte → State → Outcome} (h : recvByte f s = .next t) :
    t = s ∨ ∃ v host, f v { s with host := host } = .next t := by
  rcases recvByte_cases f s with ⟨hwait, -⟩ | ⟨v, rest, -, -, hbyte⟩
  · exact .inl (Host.Outcome.next.inj (h.symm.trans hwait))
  · exact .inr ⟨v, _, hbyte.symm.trans h⟩

theorem recvByte_sameCore {f : Byte → State → Outcome}
    (hf : ∀ {v s t}, f v s = .next t → SameCore s t) (h : recvByte f s = .next t) :
    SameCore s t := by
  rcases recvByte_eq_next h with rfl | ⟨v, host, h⟩
  · exact ⟨rfl, rfl⟩
  · have hframe := hf h
    exact hframe

/-- The step of a phase, by the phase (R38). -/
theorem byPhase_cases {header payload : State → Outcome} (h : byPhase header payload s = .next t) :
    (s.PHASE = .idle ∧ header s = .next t) ∨ (s.PHASE = .pay ∧ payload s = .next t) ∨
      (s.PHASE = .drain ∧ recvByte drainByte s = .next t) ∨
      (s.PHASE = .kxInit ∧ kxInitStep s = .next t) ∨ (s.PHASE = .kxMix ∧ kxMixStep s = .next t) ∨
      (s.PHASE = .enRun ∧ enRunStep s = .next t) ∨ (s.PHASE = .deRun ∧ deRunStep s = .next t) ∨
      (s.PHASE = .resp ∧ respStep s = .next t) := by
  cases hp : s.PHASE <;> simp only [byPhase, hp] at h <;> simp [h]

theorem byPhase_idle {header payload : State → Outcome} (hp : s.PHASE = .idle) :
    byPhase header payload s = header s := by
  simp [byPhase, hp]

theorem byPhase_pay {header payload : State → Outcome} (hp : s.PHASE = .pay) :
    byPhase header payload s = payload s := by
  simp [byPhase, hp]

theorem byPhase_sameCore {header payload : State → Outcome}
    (hheader : ∀ {s t}, header s = .next t → SameCore s t)
    (hpayload : ∀ {s t}, payload s = .next t → SameCore s t)
    (h : byPhase header payload s = .next t) : SameCore s t := by
  rcases byPhase_cases h with ⟨-, h⟩ | ⟨-, h⟩ | ⟨-, h⟩ | ⟨-, h⟩ | ⟨-, h⟩ | ⟨-, h⟩ | ⟨-, h⟩ | ⟨-, h⟩
  · exact hheader h
  · exact hpayload h
  · exact recvByte_sameCore drainByte_sameCore h
  · exact kxInitStep_sameCore h
  · exact kxMixStep_sameCore h
  · exact enRunStep_sameCore h
  · exact deRunStep_sameCore h
  · exact respStep_sameCore h

/-! ### The three commands, phase by phase (R120, R150, R156) -/

theorem exec_keyx (len : Nat) (s : State) :
    exec (.keyx len) s = byPhase (keyxHeader len) (recvByte (keyxByte len)) s := rfl

theorem exec_enc (len : Nat) (s : State) :
    exec (.enc len) s = byPhase (blockHeader len) (recvByte (blockByte encEntry len)) s := rfl

theorem exec_dec (len : Nat) (s : State) :
    exec (.dec len) s = byPhase (blockHeader len) (recvByte (blockByte decEntry len)) s := rfl

/-- No command refuses anything, in any of its phases. -/
theorem exec_sameCore {i : Instr} (h : exec i s = .next t) : SameCore s t := by
  cases i with
  | keyx len =>
    rw [exec_keyx] at h
    exact byPhase_sameCore keyxHeader_sameCore (recvByte_sameCore keyxByte_sameCore) h
  | enc len =>
    rw [exec_enc] at h
    exact byPhase_sameCore blockHeader_sameCore
      (recvByte_sameCore (blockByte_sameCore encEntry_sameCore)) h
  | dec len =>
    rw [exec_dec] at h
    exact byPhase_sameCore blockHeader_sameCore
      (recvByte_sameCore (blockByte_sameCore decEntry_sameCore)) h

/-! ### The sequencer, which refuses a reserved header and nothing else -/

/-- As `SameCore`, but for the refusal of a reserved header (R90). -/
def SameCoreOrReserved (s t : State) : Prop :=
  t.cfg = s.cfg ∧
    (t.REFUSED = s.REFUSED ∨ t.REFUSED = some .refOpcode ∨ t.REFUSED = some .refRsv)

theorem SameCore.orReserved (h : SameCore s t) : SameCoreOrReserved s t := ⟨h.1, .inl h.2⟩

theorem runCommandWord_sameCoreOrReserved (h : runCommandWord s = .next t) :
    SameCoreOrReserved s t := by
  rcases runCommandWord_cases s with ⟨_, i, -, -, e⟩ | ⟨_, -, -, e⟩ | ⟨_, -, -, e⟩ | ⟨-, e⟩ <;>
    rw [e] at h
  · exact (exec_sameCore h).orReserved
  all_goals
    cases h
    simp [SameCoreOrReserved]

theorem headerByte_sameCoreOrReserved {v : Byte} (h : headerByte v s = .next t) :
    SameCoreOrReserved s t := by
  rcases headerByte_cases v s with ⟨-, e⟩ | ⟨-, e⟩ <;> rw [e] at h
  · cases h
    exact ⟨rfl, .inl rfl⟩
  · exact runCommandWord_sameCoreOrReserved (s := { s with CW := _, HDRCNT := 0 }) h

theorem coreStep_sameCoreOrReserved (h : coreStep s = .next t) : SameCoreOrReserved s t := by
  rcases coreStep_cases s with ⟨-, e⟩ | ⟨-, e⟩ | ⟨-, -, e⟩
  · rcases recvByte_eq_next (e.symm.trans h) with rfl | ⟨v, host, hv⟩
    · exact ⟨rfl, .inl rfl⟩
    · exact headerByte_sameCoreOrReserved (s := { s with host := host }) hv
  · exact runCommandWord_sameCoreOrReserved (e.symm.trans h)
  · exact (exec_sameCore ((e (.keyx 0)).symm.trans h)).orReserved

/-- Settles O45, by the three kinds of step. -/
theorem noStepChangesTheConfiguration : Obligations.NoStepChangesTheConfiguration := by
  intro s t h
  obtain ⟨-, -, ⟨-, rfl⟩ | ⟨-, ⟨-, rfl⟩ | ⟨-, u, hu, rfl⟩⟩⟩ := step_cases h
  · rfl
  · rfl
  · exact (coreStep_sameCoreOrReserved hu).1

/-- Settles O11: the first step tests the configuration, and a legal core's step starts with no
refusal and makes none but those of a reserved header. -/
theorem illegalConfigurationIsRefused : Obligations.IllegalConfigurationIsRefused := by
  refine ⟨fun w r b => legal_iff, fun s hf hr hl => by simp [step, tick, hf, hr, hl, refuse], ?_⟩
  intro s t hl h
  obtain ⟨-, hr, ⟨hl', -⟩ | ⟨-, ⟨-, rfl⟩ | ⟨-, u, hu, rfl⟩⟩⟩ := step_cases h
  · simp [hl] at hl'
  · simp [hr]
  · obtain ⟨-, hu | hu | hu⟩ := coreStep_sameCoreOrReserved hu <;> simp [hu, hr]

end Sys2Proof.Machine
end

section
/-! PROOFS. The state invariant in two parts: `State.Base`, which every phase shares, and
`State.invAt`, what the registers of the phase hold; and the states that several steps answer. -/

namespace Sys2Proof.Machine

variable {s t : State}

/-! ### The two parts of the invariant -/

/-- The part of the invariant that is the same in every phase, clause by clause. -/
structure State.Base (s : State) : Prop where
  legal : s.cfg.legal = true
  lenS : s.S.length = s.cfg.t
  lenCW : s.CW.length = 4
  lenDATA : s.DATA.length = s.cfg.blockBytes
  lenL : s.L.length = s.cfg.c
  header : s.HDRCNT ≤ 3
  headerZero : s.PHASE ≠ .idle → s.HDRCNT = 0
  fitsS : ∀ o ∈ s.S, wordFits s.cfg.w o
  fitsL : ∀ o ∈ s.L, wordFits s.cfg.w o
  fitsA : wordFits s.cfg.w s.A
  fitsB : wordFits s.cfg.w s.B
  codes : ∀ st ∈ s.ST, st = stOK ∨ st = stInvalidKeyLength ∨ st = stInvalidBlockLength
  keyed : s.KEYED = true → allValued s.S
  noNoValue : s.FAULT ≠ some .noValue

/-- The part of the invariant that belongs to the phase p. -/
def State.invAt (s : State) : Phase → Prop
  | .idle => s.idleInv
  | .pay => s.payInv
  | .drain => s.drainInv
  | .kxInit => s.kxInitInv
  | .kxMix => s.kxMixInv
  | .enRun => s.roundInv
  | .deRun => s.roundInv
  | .resp => s.respInv

theorem State.Inv.base (h : s.Inv) : s.Base := by
  obtain ⟨hlegal, hS, hCW, hDATA, hL, hheader, hzero⟩ := h.shape
  obtain ⟨fS, fL, fA, fB, hcodes⟩ := h.range
  exact ⟨hlegal, hS, hCW, hDATA, hL, hheader, hzero, fS, fL, fA, fB, hcodes, h.keyed, h.noNoValue⟩

/-- The two parts make the invariant. -/
theorem State.Base.inv {p : Phase} (hb : s.Base) (hp : s.PHASE = p) (hinv : s.invAt p) : s.Inv := by
  subst hp
  constructor
  case shape =>
    exact ⟨hb.legal, hb.lenS, hb.lenCW, hb.lenDATA, hb.lenL, hb.header, hb.headerZero⟩
  case range => exact ⟨hb.fitsS, hb.fitsL, hb.fitsA, hb.fitsB, hb.codes⟩
  case keyed => exact hb.keyed
  case noNoValue => exact hb.noNoValue
  all_goals
    intro hp
    simpa only [State.invAt, hp] using hinv

/-! ### Reading CW -/

theorem currentInstr_eq_some {i : Instr} : currentInstr s = some i ↔
    ∃ cw, commandWord s = some cw ∧ decodeWord cw = .ok i := by
  simp only [currentInstr, Option.bind_eq_some_iff]
  refine exists_congr fun cw => and_congr_right fun _ => ?_
  cases decodeWord cw <;> simp [Except.toOption]

/-- Four header bytes make a command word (R39). -/
theorem commandWord_of_valued (hlen : s.CW.length = 4) (hv : allValued s.CW) :
    ∃ cw, commandWord s = some cw := by
  obtain ⟨b0, h0⟩ := entry_of_valued (n := 0) hv (by omega)
  obtain ⟨b1, h1⟩ := entry_of_valued (n := 1) hv (by omega)
  obtain ⟨b2, h2⟩ := entry_of_valued (n := 2) hv (by omega)
  obtain ⟨b3, h3⟩ := entry_of_valued (n := 3) hv (by omega)
  exact ⟨wordOfBytes b0 b1 b2 b3, by simp [commandWord, h0, h1, h2, h3]⟩

/-- The command a word decodes to has the word's LEN (R85). -/
theorem len_of_decodeWord {cw : BitVec 32} {i : Instr} (h : decodeWord cw = .ok i) :
    i.len = lenOf cw := by
  unfold decodeWord at h
  split_ifs at h <;> cases h <;> rfl

/-- The step in PAY is the command in CW. -/
theorem runCommandWord_of_currentInstr {i : Instr} (h : currentInstr s = some i) :
    runCommandWord s = exec i s := by
  obtain ⟨cw, hcw, hd⟩ := currentInstr_eq_some.1 h
  simp [runCommandWord, hcw, hd]

/-! ### Arrays that fill up entry by entry -/

theorem allValued_replicate {α : Type} (n : Nat) (a : α) :
    allValued (List.replicate n (some a)) := by
  intro o ho
  rw [List.eq_of_mem_replicate ho]
  rfl

theorem allValued_map_some {α : Type} (xs : List α) : allValued (xs.map some) := by
  intro o ho
  obtain ⟨x, -, rfl⟩ := List.mem_map.1 ho
  rfl

theorem allValued_take_zero {α : Type} (xs : List (Option α)) : allValued (xs.take 0) := by
  simp [allValued]

/-- Writing the first entry without a value makes the valued part one longer. -/
theorem allValued_take_set {α : Type} {xs : List (Option α)} {n : Nat} (h : allValued (xs.take n))
    (hn : n < xs.length) (a : α) : allValued ((xs.set n (some a)).take (n + 1)) := by
  intro o ho
  rw [List.take_add_one, List.take_set_of_le le_rfl, List.getElem?_set_self hn] at ho
  rcases List.mem_append.1 ho with ho | ho
  · exact h o ho
  · simp_all

/-- An entry of the valued part holds a value. -/
theorem entry_of_valued_take {α : Type} {xs : List (Option α)} {m n : Nat}
    (h : allValued (xs.take m)) (hn : n < m) (hm : m ≤ xs.length) : ∃ x, entry xs n = some x := by
  obtain ⟨x, hx⟩ := entry_of_valued h (n := n) (by simp; omega)
  rw [entry, List.getElem?_take_of_lt hn] at hx
  exact ⟨x, hx⟩

theorem wordFits_replicate (w n : Nat) {o : Option Word} (ho : wordFits w o) :
    ∀ o' ∈ List.replicate n o, wordFits w o' := by
  intro o' ho'
  rw [List.eq_of_mem_replicate ho']
  exact ho

theorem zero_fits (w : Nat) : wordFits w (some 0) := wordFits_some (Nat.two_pow_pos w)

/-! ### The states that several steps answer -/

/-- The response state: no data, or a block with the code OK (R41, R88, R205). -/
theorem State.Base.inv_respond {st : Byte} {data : List Byte} (hb : s.Base) (hzero : s.HDRCNT = 0)
    (hst : st = stOK ∨ st = stInvalidKeyLength ∨ st = stInvalidBlockLength)
    (hdata : data = [] ∨ data.length = s.cfg.blockBytes ∧ st = stOK) : (respond st data s).Inv := by
  refine State.Base.inv
    { hb with
      headerZero := fun _ => hzero
      lenDATA := ?_
      lenL := by simp
      fitsL := wordFits_replicate _ _ (wordFits_none _)
      fitsA := wordFits_none _
      fitsB := wordFits_none _
      codes := by simpa using hst }
    rfl ⟨rfl, ⟨0, rfl, data.length, rfl, Nat.zero_le _, ?_, ?_⟩, workingEmpty_respond ..⟩
  · have := hb.lenDATA
    rcases hdata with rfl | ⟨hlen, -⟩ <;> simp <;> omega
  · rw [respond_DATA, List.take_left' (by simp)]
    exact allValued_map_some data
  · rcases hdata with rfl | ⟨hlen, rfl⟩
    · exact .inl rfl
    · exact .inr ⟨hlen, rfl⟩

theorem wordsToBlock_length (u : Nat) (a b : Word) : (wordsToBlock u a b).length = 2 * u := by
  simp [wordsToBlock, leEncode_length, Nat.two_mul]

/-- The finish of ENC and DEC (R155, R160). -/
theorem State.Base.inv_finishBlock (hb : s.Base) (hzero : s.HDRCNT = 0) (ab : Word × Word) :
    (finishBlock s ab).Inv :=
  hb.inv_respond hzero (.inl rfl) (.inr ⟨wordsToBlock_length .., rfl⟩)

/-- The error response of a command of wrong length, its code the one of its kind (R121, R151). -/
theorem State.Base.inv_lengthError {st : Byte} {i : Instr} (hb : s.Base) (hzero : s.HDRCNT = 0)
    (hw : s.workingEmpty) (hrx : s.RXCNT = some 0) (hi : currentInstr s = some i)
    (hst : i = .keyx i.len ∧ i.len ≠ s.cfg.b ∧ st = stInvalidKeyLength ∨
      (i = .enc i.len ∨ i = .dec i.len) ∧ i.len ≠ s.cfg.blockBytes ∧ st = stInvalidBlockLength) :
    (lengthError st i.len s).Inv := by
  have hcode : st = stOK ∨ st = stInvalidKeyLength ∨ st = stInvalidBlockLength := by
    rcases hst with ⟨-, -, h⟩ | ⟨-, -, h⟩ <;> simp [h]
  rcases lengthError_cases st i.len s with ⟨-, e⟩ | ⟨hlen, e⟩ <;> rw [e]
  · exact hb.inv_respond hzero hcode (.inl rfl)
  · refine State.Base.inv { hb with headerZero := fun _ => hzero, codes := by simpa using hcode }
      rfl ⟨⟨0, hrx, i, hi, Nat.pos_of_ne_zero hlen, ?_⟩, hw⟩
    simpa using hst

/-- The start of Init, with the key in L and no other working register in use (R125, R131). -/
theorem State.Base.inv_startInit (hb : s.Base) (hzero : s.HDRCNT = 0) (hL : allValued s.L)
    (hA : s.A = none) (hB : s.B = none) (hj : s.j = none) (hk : s.k = none) (hr : s.rnd = none) :
    (startInit s).Inv := by
  obtain ⟨p, hp, hfit⟩ := magicP_fits hb.legal
  have ht := two_le_t s.cfg
  have hlen := hb.lenS
  refine State.Base.inv
    { hb with
      headerZero := fun _ => hzero
      lenS := by simpa using hlen
      fitsS := ?_
      keyed := by simp }
    rfl ⟨⟨1, rfl, le_rfl, ht, ?_⟩, rfl, hL, hA, hB, hj, hk, hr⟩
  · rw [startInit_S, hp]
    exact wordFits_set hb.fitsS 0 hfit
  · rw [startInit_S, hp]
    exact allValued_take_set (allValued_take_zero _) (by omega) p

end Sys2Proof.Machine
end

section
/-! PROOFS. Every step keeps the state invariant, phase by phase: with the invariant the registers a
step reads hold values, so the step answers a next state, and that state meets the invariant of its
phase. -/

namespace Sys2Proof.Machine

variable {s t : State}

/-! ### The four internal phases -/

/-- An Init step, when S[i - 1] holds a value (R125). -/
theorem kxInitStep_of_values {n : Nat} {S : List (Option Word)} (hi : s.i = some n)
    (hS : initIteration s.cfg n s.S = some S) :
    kxInitStep s = .next (if n + 1 = s.cfg.t then
        { s with
          S := S, A := some 0, B := some 0, i := some 0, j := some 0, k := some 0
          PHASE := .kxMix }
      else { s with S := S, i := some (n + 1) }) := by
  simp [kxInitStep, hi, hS]

theorem kxInitStep_keeps_inv (hs : s.Inv) (hp : s.PHASE = .kxInit) (h : kxInitStep s = .next t) :
    t.Inv := by
  have hb := hs.base
  have hzero := hb.headerZero (by simp [hp])
  obtain ⟨⟨n, hi, hn1, hnt, hv⟩, hkeyed, hL, hA, hB, hj, hk, hr⟩ := hs.kxInit hp
  have hlen := hb.lenS
  obtain ⟨x, hx⟩ := entry_of_valued_take (n := n - 1) hv (by omega) (by omega)
  obtain ⟨y, hS, hy⟩ := initIteration_spec hb.legal hx
  rw [kxInitStep_of_values hi hS] at h
  obtain rfl := Host.Outcome.next.inj h
  have hv' := allValued_take_set hv (by omega) y
  split
  case isTrue hlast =>
    have hfull : allValued (s.S.set n (some y)) := by
      rwa [List.take_of_length_le (by simp; omega)] at hv'
    exact State.Base.inv
      { hb with
        headerZero := fun _ => hzero
        lenS := by simpa using hlen
        fitsS := wordFits_set hb.fitsS n hy
        fitsA := zero_fits _
        fitsB := zero_fits _
        keyed := fun _ => hfull }
      rfl ⟨⟨0, rfl, nMix_pos _, by simp, by simp⟩, hkeyed, hfull, hL, rfl, rfl, hr⟩
  case isFalse hlast =>
    exact State.Base.inv
      { hb with
        lenS := by simpa using hlen
        fitsS := wordFits_set hb.fitsS n hy
        keyed := by simp [hkeyed] }
      hp ⟨⟨n + 1, rfl, Nat.le_add_left .., Nat.lt_of_le_of_ne hnt hlast, hv'⟩, hkeyed, hL, hA, hB,
        hj, hk, hr⟩

/-- A mix step, when the entries of its indices hold values (R127, R130). -/
theorem kxMixStep_of_values {a b : Word} {i j k : Nat} {m : MixVars} (hA : s.A = some a)
    (hB : s.B = some b) (hi : s.i = some i) (hj : s.j = some j) (hk : s.k = some k)
    (hm : mixIteration s.cfg { S := s.S, L := s.L, A := a, B := b, i := i, j := j } = some m) :
    kxMixStep s = .next (if k + 1 = s.cfg.nMix then respond stOK [] (setKeyed { s with S := m.S })
      else
        { s with
          S := m.S, L := m.L, A := some m.A, B := some m.B, i := some m.i, j := some m.j
          k := some (k + 1) }) := by
  simp [kxMixStep, hA, hB, hi, hj, hk, hm, respond, discardWorking, setKeyed]

theorem kxMixStep_keeps_inv (hs : s.Inv) (hp : s.PHASE = .kxMix) (h : kxMixStep s = .next t) :
    t.Inv := by
  have hb := hs.base
  have hzero := hb.headerZero (by simp [hp])
  obtain ⟨⟨k, hk, hlt, hi, hj⟩, hkeyed, hvS, hvL, hA, hB, hr⟩ := hs.kxMix hp
  obtain ⟨a, hA⟩ := Option.isSome_iff_exists.1 hA
  obtain ⟨b, hB⟩ := Option.isSome_iff_exists.1 hB
  have hi' : k % s.cfg.t < s.S.length := by
    rw [hb.lenS]
    exact Nat.mod_lt _ (by have := two_le_t s.cfg; omega)
  have hj' : k % s.cfg.c < s.L.length := by
    rw [hb.lenL]
    exact Nat.mod_lt _ (c_pos hb.legal)
  obtain ⟨m, hm, lenS, lenL, vS, vL, fS, fL, fA, fB, mi, mj⟩ := mixIteration_spec (cfg := s.cfg)
    (m := { S := s.S, L := s.L, A := a, B := b, i := k % s.cfg.t, j := k % s.cfg.c })
    hvS hvL hb.fitsS hb.fitsL hi' hj'
  rw [kxMixStep_of_values hA hB hi hj hk hm] at h
  obtain rfl := Host.Outcome.next.inj h
  have lenS : m.S.length = s.cfg.t := lenS.trans hb.lenS
  split
  case isTrue hlast =>
    have hb' : (setKeyed { s with S := m.S }).Base :=
      { hb with lenS := lenS, fitsS := fS, keyed := fun _ => vS }
    exact hb'.inv_respond hzero (.inl rfl) (.inl rfl)
  case isFalse hlast =>
    refine State.Base.inv
      { hb with
        lenS := lenS
        lenL := lenL.trans hb.lenL
        fitsS := fS
        fitsL := fL
        fitsA := wordFits_some fA
        fitsB := wordFits_some fB
        keyed := fun _ => vS }
      hp ⟨⟨k + 1, rfl, Nat.lt_of_le_of_ne hlt hlast, ?_, ?_⟩, hkeyed, vS, vL, rfl, rfl, hr⟩
    · simp [mi]
    · simp [mj]

/-- A state of EN_RUN or DE_RUN before round n (R154, R158). -/
theorem State.Base.inv_round {a b : Word} {n : Nat} (hb : s.Base)
    (hp : s.PHASE = .enRun ∨ s.PHASE = .deRun) (fa : a < 2 ^ s.cfg.w) (fb : b < 2 ^ s.cfg.w)
    (hn : 1 ≤ n ∧ n ≤ s.cfg.r) (hkeyed : s.KEYED = true) (hL : noneValued s.L) (hi : s.i = none)
    (hj : s.j = none) (hk : s.k = none) :
    { s with A := some a, B := some b, rnd := some n }.Inv := by
  have hb' : { s with A := some a, B := some b, rnd := some n }.Base :=
    { hb with fitsA := wordFits_some fa, fitsB := wordFits_some fb }
  have hround : { s with A := some a, B := some b, rnd := some n }.roundInv :=
    ⟨⟨n, rfl, hn⟩, hkeyed, rfl, rfl, hL, hi, hj, hk⟩
  rcases hp with hp | hp <;> exact hb'.inv hp hround

/-- An ENC round, when its two schedule words hold values (R154, R155). -/
theorem enRunStep_of_values {a b : Word} {n : Nat} {ab : Word × Word} (hA : s.A = some a)
    (hB : s.B = some b) (hn : s.rnd = some n) (hab : encRound s.cfg s.S n (a, b) = some ab) :
    enRunStep s = .next (if n = s.cfg.r then finishBlock s ab
      else { s with A := some ab.1, B := some ab.2, rnd := some (n + 1) }) := by
  simp [enRunStep, hA, hB, hn, hab, finishBlock, respond, discardWorking]

theorem enRunStep_keeps_inv (hs : s.Inv) (hp : s.PHASE = .enRun) (h : enRunStep s = .next t) :
    t.Inv := by
  have hb := hs.base
  have hzero := hb.headerZero (by simp [hp])
  obtain ⟨⟨n, hn, hn1, hnr⟩, hkeyed, hA, hB, hL, hi, hj, hk⟩ := hs.enRun hp
  obtain ⟨a, hA⟩ := Option.isSome_iff_exists.1 hA
  obtain ⟨b, hB⟩ := Option.isSome_iff_exists.1 hB
  obtain ⟨ab, hab, fa, fb⟩ := encRound_spec (cfg := s.cfg) (ab := (a, b)) (hb.keyed hkeyed)
    (n := n) (by rw [hb.lenS, Config.t]; omega)
  rw [enRunStep_of_values hA hB hn hab] at h
  obtain rfl := Host.Outcome.next.inj h
  split
  · exact hb.inv_finishBlock hzero ab
  · exact hb.inv_round (.inl hp) fa fb (by omega) hkeyed hL hi hj hk

/-- A DEC round, when its two schedule words and those of the post-whitening hold values (R158). -/
theorem deRunStep_of_values {a b : Word} {n : Nat} {ab ab' : Word × Word} (hA : s.A = some a)
    (hB : s.B = some b) (hn : s.rnd = some n) (hab : decRound s.cfg s.S n (a, b) = some ab)
    (hab' : postWhiten s.cfg s.S ab = some ab') :
    deRunStep s = .next (if n - 1 = 0 then finishBlock s ab'
      else { s with A := some ab.1, B := some ab.2, rnd := some (n - 1) }) := by
  by_cases hlast : n - 1 = 0 <;>
    simp [deRunStep, hA, hB, hn, hab, hlast, decFinish, hab', finishBlock, respond, discardWorking]

theorem deRunStep_keeps_inv (hs : s.Inv) (hp : s.PHASE = .deRun) (h : deRunStep s = .next t) :
    t.Inv := by
  have hb := hs.base
  have hzero := hb.headerZero (by simp [hp])
  obtain ⟨⟨n, hn, hn1, hnr⟩, hkeyed, hA, hB, hL, hi, hj, hk⟩ := hs.deRun hp
  obtain ⟨a, hA⟩ := Option.isSome_iff_exists.1 hA
  obtain ⟨b, hB⟩ := Option.isSome_iff_exists.1 hB
  have ha : a < 2 ^ s.cfg.w := hb.fitsA a hA
  have hv := hb.keyed hkeyed
  obtain ⟨ab, hab, fa, fb⟩ := decRound_spec (cfg := s.cfg) (ab := (a, b)) hv
    (n := n) (by rw [hb.lenS, Config.t]; omega) ha
  obtain ⟨ab', hab', -⟩ := postWhiten_spec (cfg := s.cfg) (ab := ab) hv
    (by rw [hb.lenS]; exact two_le_t _)
  rw [deRunStep_of_values hA hB hn hab hab'] at h
  obtain rfl := Host.Outcome.next.inj h
  split
  · exact hb.inv_finishBlock hzero ab'
  · exact hb.inv_round (.inr hp) fa fb (by omega) hkeyed hL hi hj hk

/-! ### RESP and DRAIN -/

/-- The byte of a loaded response at TXCNT (R88, R206). -/
theorem responseByte_of_respInv {n m : Nat} (hst : s.ST.isSome) (hv : allValued (s.DATA.take m))
    (hm : m ≤ s.DATA.length) (hn : n ≤ m) : ∃ v, responseByte s n = some v := by
  cases n with
  | zero => simpa [responseByte] using Option.isSome_iff_exists.1 hst
  | succ n => simpa [responseByte] using entry_of_valued_take hv hn hm

/-- A response byte taken (R206). -/
theorem respStep_of_values {n m : Nat} {v : Byte} (ht : hostTakes s = true) (hn : s.TXCNT = some n)
    (hv : responseByte s n = some v) (hm : s.RLEN = some m) :
    respStep s = .next (sendByte v
      { s with TXCNT := some (n + 1), PHASE := if n = m then .idle else .resp }) := by
  simp [respStep, ht, hn, hv, hm]

theorem respStep_keeps_inv (hs : s.Inv) (hp : s.PHASE = .resp) (h : respStep s = .next t) :
    t.Inv := by
  have hb := hs.base
  have hzero := hb.headerZero (by simp [hp])
  obtain ⟨hst, ⟨n, hn, m, hm, hnm, hv, hdata⟩, hw⟩ := hs.resp hp
  have hlen : m ≤ s.DATA.length := by
    have := hb.lenDATA
    omega
  obtain ⟨v, hbyte⟩ := responseByte_of_respInv hst hv hlen hnm
  cases ht : hostTakes s
  case false =>
    obtain rfl : s = t := by simpa [respStep, ht] using h
    exact hs
  case true =>
    rw [respStep_of_values ht hn hbyte hm] at h
    obtain rfl := Host.Outcome.next.inj h
    refine inv_withHost (s := { s with TXCNT := some (n + 1), PHASE := _ }) ?_ _
    split
    case isTrue hlast =>
      exact State.Base.inv { hb with headerZero := fun _ => hzero } rfl
        ⟨hzero ▸ allValued_take_zero _, hw⟩
    case isFalse hlast =>
      exact State.Base.inv { hb with headerZero := fun _ => hzero } rfl
        ⟨hst, ⟨n + 1, rfl, m, hm, Nat.lt_of_le_of_ne hnm hlast, hv, hdata⟩, hw⟩

/-- A drained byte, when CW and the two registers hold values (R204). -/
theorem drainByte_of_values {n : Nat} {cw : BitVec 32} {st : Byte} (v : Byte)
    (hn : s.RXCNT = some n) (hcw : commandWord s = some cw) (hst : s.ST = some st) :
    drainByte v s = .next (if n + 1 = lenOf cw then respond st [] { s with RXCNT := some (n + 1) }
      else { s with RXCNT := some (n + 1) }) := by
  by_cases hlast : n + 1 = lenOf cw <;> simp [drainByte, hn, hcw, hst, hlast]

theorem drainByte_keeps_inv {v : Byte} (hs : s.Inv) (hp : s.PHASE = .drain)
    (h : drainByte v s = .next t) : t.Inv := by
  have hb := hs.base
  have hzero := hb.headerZero (by simp [hp])
  obtain ⟨⟨n, hn, i, hi, hlt, hkind⟩, hw⟩ := hs.drain hp
  obtain ⟨cw, hcw, hd⟩ := currentInstr_eq_some.1 hi
  obtain ⟨st, hst⟩ : ∃ st, s.ST = some st := by
    rcases hkind with ⟨-, -, hst⟩ | ⟨-, -, hst⟩ <;> exact ⟨_, hst⟩
  rw [drainByte_of_values v hn hcw hst, ← len_of_decodeWord hd] at h
  obtain rfl := Host.Outcome.next.inj h
  have hb' : { s with RXCNT := some (n + 1) }.Base := { hb with }
  split
  case isTrue hlast => exact hb'.inv_respond hzero (hb.codes st hst) (.inl rfl)
  case isFalse hlast =>
    exact hb'.inv hp ⟨⟨n + 1, rfl, i, hi, Nat.lt_of_le_of_ne hlt hlast, hkind⟩, hw⟩

/-! ### PAY -/

/-- A key byte, when its word of L holds a value (R124, R203). -/
theorem keyxByte_of_values {len n : Nat} {v : Byte} {L : List (Option Word)} (hn : s.RXCNT = some n)
    (hL : placeKeyByte s.cfg.u s.L n v = some L) :
    keyxByte len v s = .next (if n + 1 = len then startInit { s with L := L, RXCNT := some (n + 1) }
      else { s with L := L, RXCNT := some (n + 1) }) := by
  simp [keyxByte, hn, hL]

/-- A key byte placed in a cleared L of w-bit words (R124). -/
theorem placeKeyByte_spec {cfg : Config} {L : List (Option Word)} {n : Nat} (v : Byte)
    (hlegal : cfg.legal = true) (hlen : L.length = cfg.c) (hv : allValued L)
    (hfits : ∀ o ∈ L, wordFits cfg.w o) (hn : n < cfg.b) :
    ∃ L', placeKeyByte cfg.u L n v = some L' ∧ L'.length = cfg.c ∧ allValued L' ∧
      ∀ o ∈ L', wordFits cfg.w o := by
  obtain ⟨x, hx⟩ := entry_of_valued (n := n / cfg.u) hv (hlen ▸ keyWord_lt hlegal hn)
  have hfit : setByteLane x (n % cfg.u) v < 2 ^ cfg.w := by
    rw [← eight_mul_u hlegal]
    refine setByteLane_fits v ?_ (Nat.mod_lt _ (u_pos hlegal))
    rw [eight_mul_u hlegal]
    exact entry_fits hfits hx
  exact ⟨_, by simp [placeKeyByte, hx]; rfl, by simpa using hlen, allValued_set hv _ _,
    wordFits_set hfits _ hfit⟩

theorem keyxByte_keeps_inv {v : Byte} (hs : s.Inv) (hp : s.PHASE = .pay)
    (hc : currentInstr s = some (.keyx s.cfg.b)) (h : keyxByte s.cfg.b v s = .next t) : t.Inv := by
  have hb := hs.base
  have hzero := hb.headerZero (by simp [hp])
  obtain ⟨⟨n, hn, ⟨-, hlt, hv, hA, hB⟩ | ⟨hc' | hc', -⟩⟩, hi, hj, hk, hr⟩ := hs.pay hp
  case inr.inl | inr.inr => simp [hc] at hc'
  obtain ⟨L, hL, hlen, hv, hfits⟩ := placeKeyByte_spec v hb.legal hb.lenL hv hb.fitsL hlt
  rw [keyxByte_of_values hn hL] at h
  obtain rfl := Host.Outcome.next.inj h
  have hb' : { s with L := L, RXCNT := some (n + 1) }.Base :=
    { hb with lenL := hlen, fitsL := hfits }
  split
  case isTrue hlast => exact hb'.inv_startInit hzero hv hA hB hj hk hr
  case isFalse hlast =>
    exact hb'.inv hp ⟨⟨n + 1, rfl, .inl ⟨hc, Nat.lt_of_le_of_ne hlt hlast, hv, hA, hB⟩⟩, hi, hj,
      hk, hr⟩

/-- A block byte placed in its word (R184). -/
theorem placeBlockByte_fits {cfg : Config} {a b : Word} {n : Nat} (v : Byte)
    (hlegal : cfg.legal = true) (ha : a < 2 ^ cfg.w) (hb : b < 2 ^ cfg.w) (hn : n < cfg.blockBytes) :
    (placeBlockByte cfg.u (a, b) n v).1 < 2 ^ cfg.w ∧
      (placeBlockByte cfg.u (a, b) n v).2 < 2 ^ cfg.w := by
  rw [Config.blockBytes] at hn
  rw [← eight_mul_u hlegal] at ha hb ⊢
  unfold placeBlockByte
  split
  · exact ⟨setByteLane_fits v ha ‹_›, hb⟩
  · exact ⟨ha, setByteLane_fits v hb (by omega)⟩

/-- A block byte, when RXCNT, A and B hold values (R184, R203). -/
theorem blockByte_of_values {entered : State → Word × Word → Option State} {len n : Nat}
    {a b : Word} {ab : Word × Word} {v : Byte} (hn : s.RXCNT = some n) (hA : s.A = some a) (hB : s.B = some b)
    (hab : placeBlockByte s.cfg.u (a, b) n v = ab) :
    blockByte entered len v s =
      if n + 1 = len then
        orNoValue s (entered { s with A := some ab.1, B := some ab.2, RXCNT := some (n + 1) } ab)
      else .next { s with A := some ab.1, B := some ab.2, RXCNT := some (n + 1) } := by
  by_cases hlast : n + 1 = len <;> simp [blockByte, hn, hA, hB, hab, hlast]

/-- The state an entry to the rounds starts from: a keyed core with the whole block in A and B
(R153, R157). -/
structure State.BlockLoaded (s : State) (ab : Word × Word) : Prop where
  base : s.Base
  header : s.HDRCNT = 0
  keyed : s.KEYED = true
  regA : s.A = some ab.1
  regB : s.B = some ab.2
  noL : noneValued s.L
  noI : s.i = none
  noJ : s.j = none
  noK : s.k = none

theorem encEntry_inv {ab : Word × Word} (hs : s.BlockLoaded ab) :
    ∃ t, encEntry s ab = some t ∧ t.Inv := by
  obtain ⟨hb, hzero, hkeyed, hA, hB, hL, hi, hj, hk⟩ := hs
  obtain ⟨ab', hab, fa, fb⟩ := preWhiten_spec (cfg := s.cfg) (ab := ab) (hb.keyed hkeyed)
    (hb.lenS ▸ two_le_t _)
  obtain ⟨t, ht⟩ : ∃ t, encEntry s ab = some t := by simp [encEntry, hab]
  refine ⟨t, ht, ?_⟩
  obtain ⟨ab'', hab', ⟨-, rfl⟩ | ⟨hr, rfl⟩⟩ := encEntry_cases ht
  · exact hb.inv_finishBlock hzero ab''
  · obtain rfl : ab' = ab'' := Option.some.inj (hab.symm.trans hab')
    have hb' : { s with PHASE := .enRun }.Base := { hb with headerZero := fun _ => hzero }
    exact hb'.inv_round (.inl rfl) fa fb ⟨le_rfl, Nat.one_le_iff_ne_zero.2 hr⟩ hkeyed hL hi hj hk

theorem decEntry_inv {ab : Word × Word} (hs : s.BlockLoaded ab) :
    ∃ t, decEntry s ab = some t ∧ t.Inv := by
  obtain ⟨hb, hzero, hkeyed, hA, hB, hL, hi, hj, hk⟩ := hs
  obtain ⟨ab', hab, -⟩ := postWhiten_spec (cfg := s.cfg) (ab := ab) (hb.keyed hkeyed)
    (hb.lenS ▸ two_le_t _)
  obtain ⟨t, ht⟩ : ∃ t, decEntry s ab = some t := by
    by_cases hr : s.cfg.r = 0 <;> simp [decEntry, hr, decFinish, hab]
  refine ⟨t, ht, ?_⟩
  rcases decEntry_cases ht with ⟨hr, rfl⟩ | ⟨-, ab'', -, rfl⟩
  · exact State.Base.inv { hb with headerZero := fun _ => hzero } rfl
      ⟨⟨s.cfg.r, rfl, Nat.one_le_iff_ne_zero.2 hr, le_rfl⟩, hkeyed, by simp [hA], by simp [hB], hL,
        hi, hj, hk⟩
  · exact hb.inv_finishBlock hzero ab''

theorem blockByte_keeps_inv {entered : State → Word × Word → Option State} {v : Byte}
    (hentered : ∀ {s ab}, State.BlockLoaded s ab → ∃ t, entered s ab = some t ∧ t.Inv) (hs : s.Inv)
    (hp : s.PHASE = .pay)
    (hc : currentInstr s = some (.enc s.cfg.blockBytes) ∨
      currentInstr s = some (.dec s.cfg.blockBytes))
    (h : blockByte entered s.cfg.blockBytes v s = .next t) : t.Inv := by
  have hb := hs.base
  have hzero := hb.headerZero (by simp [hp])
  obtain ⟨⟨n, hn, ⟨hc', -⟩ | ⟨-, hlt, hkeyed, hL, hA, hB⟩⟩, hi, hj, hk, hr⟩ := hs.pay hp
  case inl => rcases hc with hc | hc <;> simp [hc] at hc'
  obtain ⟨a, hA⟩ := Option.isSome_iff_exists.1 hA
  obtain ⟨b, hB⟩ := Option.isSome_iff_exists.1 hB
  obtain ⟨fa, fb⟩ := placeBlockByte_fits v hb.legal (hb.fitsA a hA) (hb.fitsB b hB) hlt
  rw [blockByte_of_values hn hA hB rfl] at h
  generalize placeBlockByte s.cfg.u (a, b) n v = ab at h fa fb
  have hb' : { s with A := some ab.1, B := some ab.2, RXCNT := some (n + 1) }.Base :=
    { hb with fitsA := wordFits_some fa, fitsB := wordFits_some fb }
  split at h
  case isTrue hlast =>
    obtain ⟨u, hu, hinv⟩ := hentered ⟨hb', hzero, hkeyed, rfl, rfl, hL, hi, hj, hk⟩
    rw [hu] at h
    obtain rfl := Host.Outcome.next.inj h
    exact hinv
  case isFalse hlast =>
    obtain rfl := Host.Outcome.next.inj h
    exact hb'.inv hp ⟨⟨n + 1, rfl, .inr ⟨hc, Nat.lt_of_le_of_ne hlt hlast, hkeyed, hL, rfl, rfl⟩⟩, hi,
      hj, hk, hr⟩

/-! ### The header decode in IDLE -/

theorem keyxHeader_keeps_inv {len : Nat} (hs : s.Inv) (hp : s.PHASE = .idle) (hzero : s.HDRCNT = 0)
    (hc : currentInstr s = some (.keyx len)) (h : keyxHeader len s = .next t) : t.Inv := by
  have hb := hs.base
  have ⟨_, hw⟩ := hs.idle hp
  have ⟨hL, hA, hB, hi, hj, hk, hr⟩ := hw
  rcases keyxHeader_cases h with ⟨hne, rfl⟩ | ⟨rfl, hpos, rfl⟩ | ⟨rfl, -, rfl⟩
  · have hb' : { s with RXCNT := some 0 }.Base := { hb with }
    exact hb'.inv_lengthError (i := .keyx len) hzero hw rfl hc (.inl ⟨rfl, hne, rfl⟩)
  · exact State.Base.inv
      { hb with
        headerZero := fun _ => hzero
        lenL := by simp
        fitsL := wordFits_replicate _ _ (zero_fits _) }
      rfl ⟨⟨0, rfl, .inl ⟨hc, Nat.pos_of_ne_zero hpos, allValued_replicate _ _, hA, hB⟩⟩, hi, hj,
        hk, hr⟩
  · have hb' : { s with RXCNT := some 0, L := List.replicate s.cfg.c (some 0) }.Base :=
      { hb with lenL := by simp, fitsL := wordFits_replicate _ _ (zero_fits _) }
    exact hb'.inv_startInit hzero (allValued_replicate _ _) hA hB hj hk hr

theorem blockHeader_keeps_inv {i : Instr} (hs : s.Inv) (hp : s.PHASE = .idle) (hzero : s.HDRCNT = 0)
    (hkind : i = .enc i.len ∨ i = .dec i.len) (hc : currentInstr s = some i)
    (h : blockHeader i.len s = .next t) : t.Inv := by
  have hb := hs.base
  have ⟨_, hw⟩ := hs.idle hp
  have ⟨hL, _, _, hi, hj, hk, hr⟩ := hw
  rcases blockHeader_cases h with ⟨hne, rfl⟩ | ⟨-, -, rfl⟩ | ⟨hlen, hkeyed, rfl⟩
  · have hb' : { s with RXCNT := some 0 }.Base := { hb with }
    exact hb'.inv_lengthError hzero hw rfl hc (.inr ⟨hkind, hne, rfl⟩)
  · exact State.Base.inv { hb with noNoValue := by simp } hp (hs.idle hp)
  · have hc' : currentInstr s = some (.enc s.cfg.blockBytes) ∨
        currentInstr s = some (.dec s.cfg.blockBytes) := by
      rw [hc, ← hlen]
      simpa using hkind
    exact State.Base.inv
      { hb with
        headerZero := fun _ => hzero
        fitsA := zero_fits _
        fitsB := zero_fits _ }
      rfl ⟨⟨0, rfl, .inr ⟨hc', blockBytes_pos hb.legal, hkeyed, hL, rfl, rfl⟩⟩, hi, hj, hk, hr⟩

/-! ### The commands and the sequencer -/

/-- The header decode of every command. -/
theorem exec_idle_keeps_inv {i : Instr} (hs : s.Inv) (hp : s.PHASE = .idle) (hzero : s.HDRCNT = 0)
    (hc : currentInstr s = some i) (h : exec i s = .next t) : t.Inv := by
  cases i with
  | keyx len =>
    rw [exec_keyx, byPhase_idle hp] at h
    exact keyxHeader_keeps_inv hs hp hzero hc h
  | enc len =>
    rw [exec_enc, byPhase_idle hp] at h
    exact blockHeader_keeps_inv (i := .enc len) hs hp hzero (.inl rfl) hc h
  | dec len =>
    rw [exec_dec, byPhase_idle hp] at h
    exact blockHeader_keeps_inv (i := .dec len) hs hp hzero (.inr rfl) hc h

theorem recvByte_keeps_inv {f : Byte → State → Outcome} (hs : s.Inv)
    (hf : ∀ {v host t}, { s with host := host }.Inv → f v { s with host := host } = .next t → t.Inv)
    (h : recvByte f s = .next t) : t.Inv := by
  rcases recvByte_eq_next h with rfl | ⟨v, host, hv⟩
  · exact hs
  · exact hf (inv_withHost hs host) hv

/-- A payload byte of the command in CW, whose length the invariant fixes. -/
theorem runCommandWord_pay_keeps_inv (hs : s.Inv) (hp : s.PHASE = .pay)
    (h : runCommandWord s = .next t) : t.Inv := by
  obtain ⟨⟨n, -, ⟨hc, -⟩ | ⟨hc | hc, -⟩⟩, -⟩ := hs.pay hp <;>
    rw [runCommandWord_of_currentInstr hc] at h
  · rw [exec_keyx, byPhase_pay hp] at h
    exact recvByte_keeps_inv hs (fun hs' hv => keyxByte_keeps_inv hs' hp hc hv) h
  · rw [exec_enc, byPhase_pay hp] at h
    exact recvByte_keeps_inv hs
      (fun hs' hv => blockByte_keeps_inv encEntry_inv hs' hp (.inl hc) hv) h
  · rw [exec_dec, byPhase_pay hp] at h
    exact recvByte_keeps_inv hs
      (fun hs' hv => blockByte_keeps_inv decEntry_inv hs' hp (.inr hc) hv) h

/-- The decode of a whole header: its command, or a refusal, which no clause of the invariant
reads. -/
theorem runCommandWord_idle_keeps_inv (hs : s.Inv) (hp : s.PHASE = .idle) (hzero : s.HDRCNT = 0)
    (hv : allValued s.CW) (h : runCommandWord s = .next t) : t.Inv := by
  rcases runCommandWord_cases s with ⟨cw, i, hcw, hd, e⟩ | ⟨_, -, -, e⟩ | ⟨_, -, -, e⟩ | ⟨hcw, -⟩
  · exact exec_idle_keeps_inv hs hp hzero (currentInstr_eq_some.2 ⟨cw, hcw, hd⟩) (e.symm.trans h)
  · obtain rfl := Host.Outcome.next.inj (e.symm.trans h)
    exact State.Base.inv { hs.base with } hp (hs.idle hp)
  · obtain rfl := Host.Outcome.next.inj (e.symm.trans h)
    exact State.Base.inv { hs.base with } hp (hs.idle hp)
  · obtain ⟨cw, hcw'⟩ := commandWord_of_valued hs.base.lenCW hv
    simp [hcw] at hcw'

/-- A header byte is written to its lane, and the fourth completes CW (R201, R202). -/
theorem headerByte_keeps_inv {v : Byte} (hs : s.Inv) (hp : s.PHASE = .idle)
    (h : headerByte v s = .next t) : t.Inv := by
  have hb := hs.base
  have hlen := hb.lenCW
  have hheader := hb.header
  obtain ⟨hCW, hw⟩ := hs.idle hp
  have hCW' := allValued_take_set hCW (by omega) v
  rcases headerByte_cases v s with ⟨hlt, e⟩ | ⟨hge, e⟩ <;> rw [e] at h
  · obtain rfl := Host.Outcome.next.inj h
    exact State.Base.inv
      { hb with
        lenCW := by simpa using hlen
        header := hlt
        headerZero := fun hne => absurd hp hne }
      hp ⟨hCW', hw⟩
  · have hb' : { s with CW := s.CW.set s.HDRCNT (some v), HDRCNT := 0 }.Base :=
      { hb with
        lenCW := by simpa using hlen
        header := Nat.zero_le _
        headerZero := fun _ => rfl }
    rw [List.take_of_length_le (by simp; omega)] at hCW'
    exact runCommandWord_idle_keeps_inv (hb'.inv hp ⟨allValued_take_zero _, hw⟩) hp rfl hCW' h

/-- A step of the core, by its phase (R38). -/
theorem coreStep_keeps_inv (hs : s.Inv) (h : coreStep s = .next t) : t.Inv := by
  rcases byPhase_cases h with ⟨hp, h⟩ | ⟨hp, h⟩ | ⟨hp, h⟩ | ⟨hp, h⟩ | ⟨hp, h⟩ | ⟨hp, h⟩ | ⟨hp, h⟩ |
    ⟨hp, h⟩
  · exact recvByte_keeps_inv hs (fun hs' hv => headerByte_keeps_inv hs' hp hv) h
  · exact runCommandWord_pay_keeps_inv hs hp h
  · exact recvByte_keeps_inv hs (fun hs' hv => drainByte_keeps_inv hs' hp hv) h
  · exact kxInitStep_keeps_inv hs hp h
  · exact kxMixStep_keeps_inv hs hp h
  · exact enRunStep_keeps_inv hs hp h
  · exact deRunStep_keeps_inv hs hp h
  · exact respStep_keeps_inv hs hp h

/-- The reset state of a legal configuration meets the invariant (R260). -/
theorem inv_resetFor {cfg : Config} (hlegal : cfg.legal = true) : (State.resetFor cfg).Inv := by
  refine State.Base.inv ⟨hlegal, ?lenS, rfl, ?lenDATA, ?lenL, Nat.zero_le _, fun _ => rfl, ?fitsS,
    ?fitsL, wordFits_none _, wordFits_none _, ?codes, ?keyed, ?noNoValue⟩ rfl
    ⟨allValued_take_zero _, noneValued_replicate _, rfl, rfl, rfl, rfl, rfl, rfl⟩
  case fitsS | fitsL => exact wordFits_replicate _ _ (wordFits_none _)
  case lenS | lenDATA | lenL => exact List.length_replicate
  all_goals simp [State.resetFor]

theorem inv_resetEvent (hs : s.Inv) : (resetEvent s).Inv := by
  have hreset := inv_resetFor hs.base.legal
  exact State.Base.inv { hreset.base with noNoValue := hs.noNoValue } rfl (hreset.idle rfl)

/-- Settles O50: by the kinds of step, a refused configuration being illegal, and the core's own step
by its phase (`coreStep_keeps_inv`). -/
theorem everyStepKeepsTheInvariant : Obligations.EveryStepKeepsTheInvariant := by
  intro s t hs h
  obtain ⟨-, -, ⟨hillegal, -⟩ | ⟨-, ⟨-, rfl⟩ | ⟨-, u, hu, rfl⟩⟩⟩ := step_cases h
  · simp [hs.base.legal] at hillegal
  · exact inv_withHost (inv_resetEvent hs) _
  · exact inv_withHost (coreStep_keeps_inv hs hu) _

end Sys2Proof.Machine
end

section
/-! PROOFS. Pack (R122) and the arrival placement (R124): both fill the words of L with the key
bytes of their lanes, one from the last byte down, the other from the first byte up. -/

namespace Sys2Proof.Machine

variable {cfg : Config} {K : List Byte} {n : Nat}

/-! ### Little-endian words, one byte at a time -/

theorem leDecode_lt (ds : List Byte) : leDecode ds < 2 ^ (8 * ds.length) := by
  induction ds with
  | nil => simp [leDecode]
  | cons d ds ih =>
    have hd := d.isLt
    have harith : ∀ x p : Nat, x < p → d.toNat + 2 ^ 8 * x < 2 ^ 8 * p := by omega
    rw [leDecode, List.length_cons, Nat.mul_succ, Nat.add_comm _ 8, pow_add]
    exact harith _ _ ih

/-- A byte after the last one goes to the next lane up. -/
theorem leDecode_concat (ds : List Byte) (v : Byte) :
    leDecode (ds ++ [v]) = leDecode ds + v.toNat * 2 ^ (8 * ds.length) := by
  induction ds with
  | nil => simp [leDecode]
  | cons d ds ih =>
    rw [List.cons_append, leDecode, ih, leDecode, List.length_cons, Nat.mul_succ, Nat.add_comm _ 8,
      pow_add]
    ring

/-- The placement of a byte in the lane above those already placed (R124). -/
theorem setByteLane_leDecode (ds : List Byte) (v : Byte) :
    setByteLane (leDecode ds) ds.length v = leDecode (ds ++ [v]) := by
  have hlt := leDecode_lt ds
  have hle : 2 ^ (8 * ds.length) ≤ 2 ^ (8 * (ds.length + 1)) :=
    Nat.pow_le_pow_right (by decide) (by omega)
  rw [setByteLane, Nat.div_eq_of_lt (hlt.trans_le hle), Nat.mod_eq_of_lt hlt, leDecode_concat,
    Nat.zero_mul, Nat.zero_add, Nat.add_comm]

/-- The step of Pack on a word that still has a free lane: the bytes move one lane up, and the new
byte is the lowest (R122). -/
theorem addW_rolW_leDecode (hlegal : cfg.legal = true) {ds : List Byte} (v : Byte)
    (hlen : ds.length < cfg.u) :
    addW cfg.w (rolW cfg.w (leDecode ds) 8) v.toNat = leDecode (v :: ds) := by
  have hu := eight_mul_u hlegal
  have hlt : leDecode ds < 2 ^ (cfg.w - 8) :=
    (leDecode_lt ds).trans_le (Nat.pow_le_pow_right (by decide) (by omega))
  have hpow : 2 ^ cfg.w = 2 ^ (cfg.w - 8) * 2 ^ 8 := by
    rw [← pow_add, show cfg.w - 8 + 8 = cfg.w by omega]
  have hv := v.isLt
  have hfits : leDecode ds * 2 ^ 8 + v.toNat < 2 ^ cfg.w := by
    have harith : ∀ x p : Nat, x < p → x * 2 ^ 8 + v.toNat < p * 2 ^ 8 := by omega
    rw [hpow]
    exact harith _ _ hlt
  have hrol : rolW cfg.w (leDecode ds) 8 = leDecode ds * 2 ^ 8 := by
    rcases (show cfg.w = 8 ∨ 8 < cfg.w by omega) with hw | hw
    · obtain rfl : ds = [] := List.length_eq_zero_iff.1 (by omega)
      simp [rolW, shlW, shrW, leDecode]
    · have hamount : rotAmount cfg.w 8 = 8 := Nat.mod_eq_of_lt hw
      rw [rolW, hamount, if_neg (by decide), shlW, shrW, Nat.div_eq_of_lt hlt, Nat.or_zero,
        Nat.mod_eq_of_lt (lt_of_le_of_lt (Nat.le_add_right _ _) hfits)]
  rw [hrol, addW, Nat.mod_eq_of_lt hfits, leDecode, Nat.mul_comm, Nat.add_comm]

/-! ### The words of L -/

/-- Word m of L when it holds the key bytes from number n on that lie in its lanes. -/
def keyWord (u : Nat) (K : List Byte) (n m : Nat) : Word :=
  leDecode ((K.take ((m + 1) * u)).drop (max n (m * u)))

/-- L when it holds the key bytes from number n on. -/
def packedFrom (cfg : Config) (K : List Byte) (n : Nat) : List (Option Word) :=
  (List.range cfg.c).map fun m => some (keyWord cfg.u K n m)

@[simp] theorem packedFrom_length (cfg : Config) (K : List Byte) (n : Nat) :
    (packedFrom cfg K n).length = cfg.c := by
  simp [packedFrom]

theorem allValued_packedFrom (cfg : Config) (K : List Byte) (n : Nat) :
    allValued (packedFrom cfg K n) := by
  intro o ho
  obtain ⟨m, -, rfl⟩ := List.mem_map.1 ho
  rfl

theorem wordFits_packedFrom (hlegal : cfg.legal = true) (K : List Byte) (n : Nat) :
    ∀ o ∈ packedFrom cfg K n, wordFits cfg.w o := by
  intro o ho
  obtain ⟨m, -, rfl⟩ := List.mem_map.1 ho
  refine wordFits_some ((leDecode_lt _).trans_le (Nat.pow_le_pow_right (by decide) ?_))
  rw [← eight_mul_u hlegal, List.length_drop, List.length_take, Nat.add_one_mul m]
  omega

theorem entry_packedFrom {m : Nat} (hm : m < cfg.c) :
    entry (packedFrom cfg K n) m = some (keyWord cfg.u K n m) := by
  simp [entry, packedFrom, hm]

/-- A write to word m that leaves the other words as they are. -/
theorem packedFrom_set {K' : List Byte} {n' m : Nat}
    (hother : ∀ l, l ≠ m → keyWord cfg.u K n l = keyWord cfg.u K' n' l) :
    (packedFrom cfg K n).set m (some (keyWord cfg.u K' n' m)) = packedFrom cfg K' n' := by
  refine List.ext_getElem (by simp) fun l hl _ => ?_
  by_cases h : m = l
  · simp [packedFrom, h]
  · simp [packedFrom, h, hother l (Ne.symm h)]

theorem packedFrom_of_length_le (cfg : Config) (h : K.length ≤ n) :
    packedFrom cfg K n = List.replicate cfg.c (some 0) := by
  refine List.eq_replicate_iff.2 ⟨packedFrom_length .., fun o ho => ?_⟩
  obtain ⟨m, -, rfl⟩ := List.mem_map.1 ho
  rw [keyWord, List.drop_eq_nil_of_le (by simp; omega), leDecode]

/-- Every word below that of byte n ends at or before byte n; every word above begins after it. -/
theorem lane_bounds {u l : Nat} (hu : 0 < u) (hl : l ≠ n / u) :
    (l + 1) * u ≤ n ∨ n + 1 ≤ l * u := by
  rcases Nat.lt_or_gt_of_ne hl with h | h
  · exact .inl ((Nat.le_div_iff_mul_le hu).1 h)
  · exact .inr ((Nat.div_lt_iff_lt_mul hu).1 h)

/-- Byte n lies in the lanes of its own word. -/
theorem own_lane_bounds {u : Nat} (hu : 0 < u) : n / u * u ≤ n ∧ n < (n / u + 1) * u :=
  ⟨Nat.div_mul_le_self n u, (Nat.div_lt_iff_lt_mul hu).1 (Nat.lt_succ_self _)⟩

/-! ### Pack -/

/-- One iteration of Pack adds key byte n to the bytes after it (R122). -/
theorem packIteration_packedFrom (hlegal : cfg.legal = true) (hn : n < K.length)
    (hc : n / cfg.u < cfg.c) :
    packIteration cfg K n (packedFrom cfg K (n + 1)) = some (packedFrom cfg K n) := by
  have hu := u_pos hlegal
  have ⟨hlow, hhigh⟩ := own_lane_bounds (n := n) hu
  have hword : keyWord cfg.u K n (n / cfg.u) =
      addW cfg.w (rolW cfg.w (keyWord cfg.u K (n + 1) (n / cfg.u)) 8) K[n].toNat := by
    have hlen : ((K.take ((n / cfg.u + 1) * cfg.u)).drop (n + 1)).length < cfg.u := by
      rw [Nat.add_one_mul (n / cfg.u)] at hhigh ⊢
      rw [List.length_drop, List.length_take]
      omega
    rw [keyWord, keyWord, max_eq_left hlow, max_eq_left (by omega),
      addW_rolW_leDecode hlegal _ hlen, List.drop_eq_getElem_cons (by simp; omega),
      List.getElem_take]
  have hother : ∀ l, l ≠ n / cfg.u → keyWord cfg.u K (n + 1) l = keyWord cfg.u K n l := by
    intro l hl
    rcases lane_bounds hu hl with h | h
    · rw [keyWord, keyWord, List.drop_eq_nil_of_le (by simp; omega),
        List.drop_eq_nil_of_le (by simp; omega)]
    · rw [keyWord, keyWord, max_eq_right h, max_eq_right (by omega)]
  rw [packIteration, entry_packedFrom hc, List.getElem?_eq_getElem hn]
  simp only [Option.bind_eq_bind, Option.bind_some, Option.pure_def, ← hword, packedFrom_set hother]

/-- Pack gives each word the key bytes of its lanes (R122). -/
theorem pack_eq (hlegal : cfg.legal = true) (hlen : K.length = cfg.b) :
    pack cfg K = some (packedFrom cfg K 0) := by
  have hloop : ∀ n, n ≤ cfg.b →
      packLoop cfg K n (packedFrom cfg K n) = some (packedFrom cfg K 0) := by
    intro n
    induction n with
    | zero => exact fun _ => rfl
    | succ n ih =>
      intro hn
      rw [packLoop, packIteration_packedFrom hlegal (by omega) (keyWord_lt hlegal hn)]
      exact ih (by omega)
  rw [pack, ← packedFrom_of_length_le cfg hlen.le]
  exact hloop cfg.b le_rfl

/-! ### The arrival placement -/

/-- A key byte placed after those of K (R124). -/
theorem placeKeyByte_packedFrom (hlegal : cfg.legal = true) (v : Byte)
    (hc : K.length / cfg.u < cfg.c) :
    placeKeyByte cfg.u (packedFrom cfg K 0) K.length v = some (packedFrom cfg (K ++ [v]) 0) := by
  have hu := u_pos hlegal
  have ⟨hlow, hhigh⟩ := own_lane_bounds (n := K.length) hu
  have hword : keyWord cfg.u (K ++ [v]) 0 (K.length / cfg.u) =
      setByteLane (keyWord cfg.u K 0 (K.length / cfg.u)) (K.length % cfg.u) v := by
    have hlane : (K.drop (K.length / cfg.u * cfg.u)).length = K.length % cfg.u := by
      have := Nat.div_add_mod' K.length cfg.u
      rw [List.length_drop]
      omega
    rw [keyWord, keyWord, Nat.zero_max, List.take_of_length_le (by simp; omega),
      List.take_of_length_le (by omega), List.drop_append_of_le_length hlow, ← hlane,
      setByteLane_leDecode]
  have hother : ∀ l, l ≠ K.length / cfg.u →
      keyWord cfg.u K 0 l = keyWord cfg.u (K ++ [v]) 0 l := by
    intro l hl
    rcases lane_bounds hu hl with h | h
    · rw [keyWord, keyWord, List.take_append_of_le_length h]
    · rw [keyWord, keyWord, List.drop_eq_nil_of_le (by simp; omega),
        List.drop_eq_nil_of_le (by simp; omega)]
  rw [placeKeyByte, entry_packedFrom hc]
  simp only [Option.bind_eq_bind, Option.bind_some, Option.pure_def, ← hword, packedFrom_set hother]

/-- Placing the bytes of K' after those of K. -/
theorem placeKey_packedFrom (hlegal : cfg.legal = true) (K' : List Byte) {K : List Byte}
    (hlen : K.length + K'.length ≤ cfg.b) :
    placeKey cfg.u (packedFrom cfg K 0) K.length K' = some (packedFrom cfg (K ++ K') 0) := by
  induction K' generalizing K with
  | nil => simp [placeKey]
  | cons v K' ih =>
    rw [List.length_cons] at hlen
    have hstep := placeKeyByte_packedFrom (K := K) hlegal v (keyWord_lt hlegal (by omega))
    have hrest := ih (K := K ++ [v]) (by simp; omega)
    simpa [placeKey, hstep] using hrest

/-- The arrival order fills the cleared L as Pack does (R124). -/
theorem placeKey_eq (hlegal : cfg.legal = true) (hlen : K.length ≤ cfg.b) :
    placeKey cfg.u (List.replicate cfg.c (some 0)) 0 K = some (packedFrom cfg K 0) := by
  rw [← packedFrom_of_length_le cfg (le_refl ([] : List Byte).length)]
  exact placeKey_packedFrom hlegal K (K := []) (by simpa using hlen)

end Sys2Proof.Machine
end

section
/-! PROOFS. Key expansion completes (R120): Init gives the arithmetic sequence, each of its
iterations keeps that sequence, and the mix goes from full arrays to full arrays. -/

namespace Sys2Proof.Machine

variable {cfg : Config} {S T T' : List (Option Word)} {m : MixVars} {n : Nat}

/-! ### Init -/

/-- R7's table has a row for each legal width. -/
theorem exists_magic_row (hlegal : cfg.legal = true) :
    ∃ p q, (cfg.w, p, q) ∈ [(8, 0xB7, 0x9F), (16, 0xB7E1, 0x9E37), (32, 0xB7E15163, 0x9E3779B9),
      (64, 0xB7E151628AED2A6B, 0x9E3779B97F4A7C15)] := by
  rcases legal_width hlegal with hw | hw | hw | hw <;> simp [hw]

/-- Init completes, and S[n] is (P_w + n * Q_w) mod 2^w (R125). -/
theorem exists_init (hlegal : cfg.legal = true) :
    ∃ p q S, cfg.magicP = some p ∧ cfg.magicQ = some q ∧ init cfg = some S ∧ S.length = cfg.t ∧
      ∀ n, n < cfg.t → entry S n = some ((p + n * q) % 2 ^ cfg.w) := by
  obtain ⟨p, q, hrow⟩ := exists_magic_row hlegal
  obtain ⟨hp, hq, S, hS⟩ := initGivesTheArithmeticSequence cfg p q hlegal hrow
  exact ⟨p, q, S, hp, hq, hS⟩

/-- What Init gives, for proofs that do not need the closed form: a full schedule that starts with
P_w and that every Init iteration leaves as it is. -/
structure InitSchedule (cfg : Config) (S : List (Option Word)) : Prop where
  length : S.length = cfg.t
  valued : allValued S
  fits : ∀ o ∈ S, wordFits cfg.w o
  first : S[0]? = some cfg.magicP
  fixed : ∀ n, 1 ≤ n → n < cfg.t → initIteration cfg n S = some S

theorem init_spec (hlegal : cfg.legal = true) : ∃ S, init cfg = some S ∧ InitSchedule cfg S := by
  obtain ⟨p, q, S, hp, hq, hS, hlen, hent⟩ := exists_init hlegal
  obtain ⟨p', hp', hfit⟩ := magicP_fits hlegal
  obtain rfl : p = p' := Option.some.inj (hp.symm.trans hp')
  have hget : ∀ n, n < cfg.t → S[n]? = some (some ((p + n * q) % 2 ^ cfg.w)) :=
    fun n hn => entry_eq_some.1 (hent n hn)
  have hmem : ∀ o ∈ S, ∃ n, o = some ((p + n * q) % 2 ^ cfg.w) := by
    intro o ho
    obtain ⟨n, hn, rfl⟩ := List.mem_iff_getElem.1 ho
    exact ⟨n, Option.some.inj ((List.getElem?_eq_getElem hn).symm.trans (hget n (hlen ▸ hn)))⟩
  refine ⟨S, hS, hlen, fun o ho => ?_, fun o ho => ?_, ?_, fun n hn hnt => ?_⟩
  · obtain ⟨n, rfl⟩ := hmem o ho
    rfl
  · obtain ⟨n, rfl⟩ := hmem o ho
    exact wordFits_some (Nat.mod_lt _ (Nat.two_pow_pos _))
  · have ht := two_le_t cfg
    rw [hget 0 (by omega), hp, Nat.zero_mul, Nat.add_zero, Nat.mod_eq_of_lt hfit]
  · have hval : addW cfg.w ((p + (n - 1) * q) % 2 ^ cfg.w) q = (p + n * q) % 2 ^ cfg.w := by
      obtain ⟨l, rfl⟩ := Nat.exists_eq_add_of_le' hn
      rw [Nat.add_sub_cancel, addW, Nat.mod_add_mod, Nat.add_one_mul l, Nat.add_assoc]
    have hn' : n < S.length := hlen ▸ hnt
    have hself : S[n] = some ((p + n * q) % 2 ^ cfg.w) :=
      Option.some.inj ((List.getElem?_eq_getElem hn').symm.trans (hget n hnt))
    rw [initIteration_eq (hent (n - 1) (by omega)) hq, hval, ← hself, List.set_getElem_self]

/-- The schedule of Init is the one `init` computes. -/
theorem initSchedule_of_init (hlegal : cfg.legal = true) (h : init cfg = some S) :
    InitSchedule cfg S := by
  obtain ⟨S', hS', hspec⟩ := init_spec hlegal
  obtain rfl : S = S' := Option.some.inj (h.symm.trans hS')
  exact hspec

/-- Writing P_w to S[0] makes S agree with Init's schedule at its first entry (R125). -/
theorem InitSchedule.take_one (hS : InitSchedule cfg S) (hT : 0 < T.length) :
    (T.set 0 cfg.magicP).take 1 = S.take 1 := by
  rw [List.take_add_one, List.take_add_one, List.getElem?_set_self hT, hS.first, List.take_zero,
    List.take_zero]

/-- An Init iteration on an array that agrees with Init's schedule below n writes its entry n. -/
theorem InitSchedule.take_succ (hS : InitSchedule cfg S) (hn : 1 ≤ n) (hnt : n < cfg.t)
    (hT : T.length = cfg.t) (htake : T.take n = S.take n) :
    ∃ T', initIteration cfg n T = some T' ∧ T'.length = cfg.t ∧
      T'.take (n + 1) = S.take (n + 1) := by
  have hread : entry T (n - 1) = entry S (n - 1) := by
    have hget := congrArg (·[n - 1]?) htake
    simp only [List.getElem?_take_of_lt (show n - 1 < n by omega)] at hget
    rw [entry, entry, hget]
  have hSstep := hS.fixed n hn hnt
  simp only [initIteration, ← hread, Option.bind_eq_bind, Option.bind_eq_some_iff,
    Option.pure_def] at hSstep
  obtain ⟨x, hx, q, hq, hset⟩ := hSstep
  refine ⟨_, initIteration_eq hx hq, by simpa using hT, ?_⟩
  rw [← Option.some.inj hset, List.take_add_one, List.take_add_one, List.take_set_of_le le_rfl,
    List.take_set_of_le le_rfl, htake, List.getElem?_set_self (by omega),
    List.getElem?_set_self (by rw [hS.length]; exact hnt)]

/-! ### The mix -/

/-- The variables of a mix over full arrays, its two indices in range (R127). -/
structure MixVars.Full (cfg : Config) (m : MixVars) : Prop where
  lenS : m.S.length = cfg.t
  lenL : m.L.length = cfg.c
  valuedS : allValued m.S
  valuedL : allValued m.L
  fitsS : ∀ o ∈ m.S, wordFits cfg.w o
  fitsL : ∀ o ∈ m.L, wordFits cfg.w o
  i_lt : m.i < cfg.t
  j_lt : m.j < cfg.c

theorem MixVars.Full.mixIteration (hlegal : cfg.legal = true) (hm : m.Full cfg) :
    ∃ m', mixIteration cfg m = some m' ∧ m'.Full cfg := by
  obtain ⟨m', hm', lenS, lenL, vS, vL, fS, fL, -, -, hi, hj⟩ := mixIteration_spec hm.valuedS
    hm.valuedL hm.fitsS hm.fitsL (hm.lenS ▸ hm.i_lt) (hm.lenL ▸ hm.j_lt)
  exact ⟨m', hm', lenS.trans hm.lenS, lenL.trans hm.lenL, vS, vL, fS, fL,
    hi ▸ Nat.mod_lt _ (Nat.zero_lt_of_lt hm.i_lt), hj ▸ Nat.mod_lt _ (c_pos hlegal)⟩

/-- Every iteration of the mix completes (R128). -/
theorem MixVars.Full.mixLoop (hlegal : cfg.legal = true) (hm : m.Full cfg) (n : Nat) :
    ∃ m', mixLoop cfg n m = some m' ∧ m'.Full cfg := by
  induction n with
  | zero => exact ⟨m, rfl, hm⟩
  | succ n ih =>
    obtain ⟨m₁, h₁, hfull₁⟩ := ih
    obtain ⟨m₂, h₂, hfull₂⟩ := hfull₁.mixIteration hlegal
    exact ⟨m₂, by simp [Machine.mixLoop, h₁, h₂], hfull₂⟩

/-- The mix starts from full arrays (R126). -/
theorem full_mixStart (hlegal : cfg.legal = true) (hS : InitSchedule cfg S) (K : List Byte) :
    (mixStart S (packedFrom cfg K 0)).Full cfg where
  lenS := hS.length
  lenL := packedFrom_length ..
  valuedS := hS.valued
  valuedL := allValued_packedFrom cfg K 0
  fitsS := hS.fits
  fitsL := wordFits_packedFrom hlegal K 0
  i_lt := Nat.lt_of_lt_of_le Nat.zero_lt_two (two_le_t cfg)
  j_lt := c_pos hlegal

/-! ### The three steps together -/

/-- Expand is Pack, Init and the whole mix (R120, R128, R130). -/
theorem expand_eq_some {K : List Byte} {S' : List (Option Word)} :
    expand cfg K = some S' ↔ ∃ L S m, pack cfg K = some L ∧ init cfg = some S ∧
      mixLoop cfg cfg.nMix (mixStart S L) = some m ∧ m.S = S' := by
  simp [expand, Option.bind_eq_some_iff]

/-- Settles O24: Pack and Init give full arrays, and the mix keeps them full. -/
theorem expandGivesAFullSchedule : Obligations.ExpandGivesAFullSchedule := by
  intro cfg K hlegal hlen
  obtain ⟨S, hS, hinit⟩ := init_spec hlegal
  obtain ⟨m, hm, hfull⟩ := (full_mixStart hlegal hinit K).mixLoop hlegal cfg.nMix
  refine ⟨m.S, expand_eq_some.2 ⟨_, S, m, pack_eq hlegal hlen, hS, hm, rfl⟩, hfull.lenS, ?_⟩
  intro n hn
  obtain ⟨x, hx⟩ := entry_of_valued hfull.valuedS hn
  exact ⟨x, hx, entry_fits hfull.fitsS hx⟩

end Sys2Proof.Machine
end

section
/-! PROOFS. Who writes the schedule (R34, R37): a reset, the start of Init, and the steps of
KX_INIT and KX_MIX. Every other step leaves S and KEYED alone, and no KEYX is in progress after
it. -/

namespace Sys2Proof.Machine

variable {s t : State}

/-! ### Steps outside a KEYX -/

/-- The step from s to t keeps the schedule, and no KEYX is in progress in t. -/
structure OutsideKeyx (s t : State) : Prop where
  cfg : t.cfg = s.cfg
  S : t.S = s.S
  KEYED : t.KEYED = s.KEYED
  notInit : t.PHASE ≠ .kxInit
  notMix : t.PHASE ≠ .kxMix
  notKey : t.PHASE = .pay → currentInstr t ≠ some (.keyx t.cfg.b)

/-- The usual case: a phase of no KEYX. -/
theorem OutsideKeyx.of_phase (hcfg : t.cfg = s.cfg) (hS : t.S = s.S) (hK : t.KEYED = s.KEYED)
    (hp : t.PHASE ≠ .kxInit ∧ t.PHASE ≠ .kxMix ∧ t.PHASE ≠ .pay) : OutsideKeyx s t :=
  by
  obtain ⟨hinit, hmix, hpay⟩ := hp
  exact ⟨hcfg, hS, hK, hinit, hmix, fun h => absurd h hpay⟩

/-- A step that stays in PAY with the command of an ENC or DEC. -/
theorem OutsideKeyx.of_pay (hcfg : t.cfg = s.cfg) (hS : t.S = s.S) (hK : t.KEYED = s.KEYED)
    (hp : t.PHASE = .pay) (hc : currentInstr t ≠ some (.keyx t.cfg.b)) : OutsideKeyx s t :=
  ⟨hcfg, hS, hK, by simp [hp], by simp [hp], fun _ => hc⟩

/-- What a step does from a state that differs from s in other registers only. -/
theorem OutsideKeyx.of_same {u : State} (h : OutsideKeyx u t) (hcfg : u.cfg = s.cfg)
    (hS : u.S = s.S) (hK : u.KEYED = s.KEYED) : OutsideKeyx s t :=
  ⟨h.cfg.trans hcfg, h.S.trans hS, h.KEYED.trans hK, h.notInit, h.notMix, h.notKey⟩

theorem respond_outsideKeyx (st : Byte) (data : List Byte) (s : State) :
    OutsideKeyx s (respond st data s) :=
  .of_phase rfl rfl rfl (by simp)

theorem lengthError_outsideKeyx (st : Byte) (len : Nat) (s : State) :
    OutsideKeyx s (lengthError st len s) := by
  rcases lengthError_cases st len s with ⟨-, h⟩ | ⟨-, h⟩ <;> rw [h]
  · exact respond_outsideKeyx ..
  · exact .of_phase rfl rfl rfl (by simp)

theorem blockHeader_outsideKeyx {len : Nat} (hp : s.PHASE = .idle)
    (hc : currentInstr s ≠ some (.keyx s.cfg.b)) (h : blockHeader len s = .next t) :
    OutsideKeyx s t := by
  rcases blockHeader_cases h with ⟨-, rfl⟩ | ⟨-, -, rfl⟩ | ⟨-, -, rfl⟩
  · exact (lengthError_outsideKeyx ..).of_same rfl rfl rfl
  · exact .of_phase rfl rfl rfl (by simp [hp])
  · exact .of_pay rfl rfl rfl rfl hc

theorem encEntry_outsideKeyx {ab : Word × Word} (h : encEntry s ab = some t) : OutsideKeyx s t := by
  obtain ⟨ab', -, ⟨-, rfl⟩ | ⟨-, rfl⟩⟩ := encEntry_cases h
  · exact respond_outsideKeyx ..
  · exact .of_phase rfl rfl rfl (by simp)

theorem decEntry_outsideKeyx {ab : Word × Word} (h : decEntry s ab = some t) : OutsideKeyx s t := by
  rcases decEntry_cases h with ⟨-, rfl⟩ | ⟨-, ab', -, rfl⟩
  · exact .of_phase rfl rfl rfl (by simp)
  · exact respond_outsideKeyx ..

theorem blockByte_outsideKeyx {entered : State → Word × Word → Option State} {len : Nat} {v : Byte}
    (hentered : ∀ {s t ab}, entered s ab = some t → OutsideKeyx s t) (hp : s.PHASE = .pay)
    (hc : currentInstr s ≠ some (.keyx s.cfg.b)) (h : blockByte entered len v s = .next t) :
    OutsideKeyx s t := by
  rcases blockByte_cases h with ⟨n, a, b, -, -, -, ⟨-, rfl⟩ | ⟨-, ht⟩⟩ | rfl
  · exact .of_pay rfl rfl rfl hp hc
  · exact (hentered ht).of_same rfl rfl rfl
  · exact .of_pay rfl rfl rfl hp hc

/-- A payload byte of an ENC or DEC, or the wait for it. -/
theorem recvByte_blockByte_outsideKeyx {entered : State → Word × Word → Option State} {len : Nat}
    (hentered : ∀ {s t ab}, entered s ab = some t → OutsideKeyx s t) (hp : s.PHASE = .pay)
    (hc : currentInstr s ≠ some (.keyx s.cfg.b))
    (h : recvByte (blockByte entered len) s = .next t) : OutsideKeyx s t := by
  rcases recvByte_eq_next h with rfl | ⟨v, host, hv⟩
  · exact .of_pay rfl rfl rfl hp hc
  · have hu := blockByte_outsideKeyx (s := { s with host := host }) hentered hp hc hv
    exact hu.of_same rfl rfl rfl

theorem enRunStep_outsideKeyx (hp : s.PHASE = .enRun) (h : enRunStep s = .next t) :
    OutsideKeyx s t := by
  rcases enRunStep_cases h with ⟨a, b, n, ab, -, -, -, -, ⟨-, rfl⟩ | ⟨-, rfl⟩⟩ | rfl
  · exact .of_phase rfl rfl rfl (by simp [hp])
  · exact respond_outsideKeyx ..
  · exact .of_phase rfl rfl rfl (by simp [hp])

theorem deRunStep_outsideKeyx (hp : s.PHASE = .deRun) (h : deRunStep s = .next t) :
    OutsideKeyx s t := by
  rcases deRunStep_cases h with ⟨a, b, n, ab, -, -, -, -, ⟨-, rfl⟩ | ⟨-, ab', -, rfl⟩⟩ | rfl
  · exact .of_phase rfl rfl rfl (by simp [hp])
  · exact respond_outsideKeyx ..
  · exact .of_phase rfl rfl rfl (by simp [hp])

theorem drainByte_outsideKeyx {v : Byte} (hp : s.PHASE = .drain) (h : drainByte v s = .next t) :
    OutsideKeyx s t := by
  rcases drainByte_cases h with ⟨n, cw, -, -, ⟨-, rfl⟩ | ⟨-, st, -, rfl⟩⟩ | rfl
  · exact .of_phase rfl rfl rfl (by simp [hp])
  · exact (respond_outsideKeyx ..).of_same rfl rfl rfl
  · exact .of_phase rfl rfl rfl (by simp [hp])

theorem respStep_outsideKeyx (hp : s.PHASE = .resp) (h : respStep s = .next t) :
    OutsideKeyx s t := by
  rcases respStep_cases h with ⟨-, rfl⟩ | ⟨n, v, len, -, -, -, -, rfl⟩ | rfl
  · exact .of_phase rfl rfl rfl (by simp [hp])
  · exact .of_phase rfl rfl rfl (by rw [sendByte_PHASE]; dsimp only; split <;> simp)
  · exact .of_phase rfl rfl rfl (by simp [hp])

/-! ### The core's step, as to the schedule -/

/-- s with the fourth header byte taken: CW is whole and HDRCNT back at 0 (R201). -/
def State.headerTaken (s : State) (CW : List (Option Byte)) (host : HostAgent) : State :=
  { s with CW := CW, HDRCNT := 0, host := host }

/-- A step that is part of a KEYX: its header decode, a key byte or a wait for it, an Init step or
a mix step. -/
inductive KeyxStep (s t : State) : Prop
  | header (len : Nat) (CW : List (Option Byte)) (host : HostAgent) (hp : s.PHASE = .idle)
      (h : keyxHeader len (s.headerTaken CW host) = .next t)
  | wait (hp : s.PHASE = .pay) (h : t = s)
  | byte (len : Nat) (v : Byte) (host : HostAgent) (hp : s.PHASE = .pay)
      (hc : currentInstr s = some (.keyx len))
      (h : keyxByte len v { s with host := host } = .next t)
  | init (hp : s.PHASE = .kxInit) (h : kxInitStep s = .next t)
  | mix (hp : s.PHASE = .kxMix) (h : kxMixStep s = .next t)

/-- The decode of a whole header (R202). -/
theorem headerTaken_schedule {CW : List (Option Byte)} {host : HostAgent} (hp : s.PHASE = .idle)
    (h : runCommandWord (s.headerTaken CW host) = .next t) : OutsideKeyx s t ∨ KeyxStep s t := by
  have hp' : (s.headerTaken CW host).PHASE = .idle := hp
  rcases runCommandWord_cases (s.headerTaken CW host) with
    ⟨cw, i, hcw, hd, e⟩ | ⟨cw, -, -, e⟩ | ⟨cw, -, -, e⟩ | ⟨-, e⟩ <;> rw [e] at h
  · have hc := currentInstr_eq_some.2 ⟨cw, hcw, hd⟩
    cases i with
    | keyx len =>
      rw [exec_keyx, byPhase_idle hp'] at h
      exact .inr (.header len CW host hp h)
    | enc len =>
      rw [exec_enc, byPhase_idle hp'] at h
      exact .inl ((blockHeader_outsideKeyx hp' (by simp [hc]) h).of_same rfl rfl rfl)
    | dec len =>
      rw [exec_dec, byPhase_idle hp'] at h
      exact .inl ((blockHeader_outsideKeyx hp' (by simp [hc]) h).of_same rfl rfl rfl)
  all_goals
    obtain rfl := Host.Outcome.next.inj h
    exact .inl (.of_phase rfl rfl rfl (by simp [hp']))

/-- A header byte (R201). -/
theorem headerByte_schedule {v : Byte} {host : HostAgent} (hp : s.PHASE = .idle)
    (h : headerByte v { s with host := host } = .next t) : OutsideKeyx s t ∨ KeyxStep s t := by
  rcases headerByte_cases v { s with host := host } with ⟨-, e⟩ | ⟨-, e⟩ <;> rw [e] at h
  · obtain rfl := Host.Outcome.next.inj h
    exact .inl (.of_phase rfl rfl rfl (by simp [hp]))
  · exact headerTaken_schedule (CW := s.CW.set s.HDRCNT (some v)) (host := host) hp h

/-- A step in PAY (R203). -/
theorem runCommandWord_pay_schedule (hp : s.PHASE = .pay) (h : runCommandWord s = .next t) :
    OutsideKeyx s t ∨ KeyxStep s t := by
  rcases runCommandWord_cases s with
    ⟨cw, i, hcw, hd, e⟩ | ⟨cw, hcw, hd, e⟩ | ⟨cw, hcw, hd, e⟩ | ⟨hcw, e⟩ <;> rw [e] at h
  · have hc := currentInstr_eq_some.2 ⟨cw, hcw, hd⟩
    cases i with
    | keyx len =>
      rw [exec_keyx, byPhase_pay hp] at h
      rcases recvByte_eq_next h with rfl | ⟨v, host, hv⟩
      · exact .inr (.wait hp rfl)
      · exact .inr (.byte len v host hp hc hv)
    | enc len =>
      rw [exec_enc, byPhase_pay hp] at h
      exact .inl (recvByte_blockByte_outsideKeyx encEntry_outsideKeyx hp (by simp [hc]) h)
    | dec len =>
      rw [exec_dec, byPhase_pay hp] at h
      exact .inl (recvByte_blockByte_outsideKeyx decEntry_outsideKeyx hp (by simp [hc]) h)
  all_goals
    obtain rfl := Host.Outcome.next.inj h
    have hc : currentInstr s ≠ some (.keyx s.cfg.b) := by simp [currentInstr, Except.toOption, *]
    exact .inl (.of_pay rfl rfl rfl hp hc)

/-- A drained byte, or the wait for it (R204). -/
theorem recvByte_drainByte_outsideKeyx (hp : s.PHASE = .drain)
    (h : recvByte drainByte s = .next t) : OutsideKeyx s t := by
  rcases recvByte_eq_next h with rfl | ⟨v, host, hv⟩
  · exact .of_phase rfl rfl rfl (by simp [hp])
  · exact (drainByte_outsideKeyx (s := { s with host := host }) hp hv).of_same rfl rfl rfl

/-- Every step of the core is outside a KEYX or one of its steps. -/
theorem coreStep_schedule (h : coreStep s = .next t) : OutsideKeyx s t ∨ KeyxStep s t := by
  rcases byPhase_cases h with ⟨hp, h⟩ | ⟨hp, h⟩ | ⟨hp, h⟩ | ⟨hp, h⟩ | ⟨hp, h⟩ | ⟨hp, h⟩ | ⟨hp, h⟩ |
    ⟨hp, h⟩
  · rcases recvByte_eq_next h with rfl | ⟨v, host, hv⟩
    · exact .inl (.of_phase rfl rfl rfl (by simp [hp]))
    · exact headerByte_schedule hp hv
  · exact runCommandWord_pay_schedule hp h
  · exact .inl (recvByte_drainByte_outsideKeyx hp h)
  · exact .inr (.init hp h)
  · exact .inr (.mix hp h)
  · exact .inl (enRunStep_outsideKeyx hp h)
  · exact .inl (deRunStep_outsideKeyx hp h)
  · exact .inl (respStep_outsideKeyx hp h)

/-! ### The writers of S and KEYED -/

/-- The start of Init, from the state s: it clears KEYED and writes P_w to S[0] (R125, R131). -/
def StartsInit (s t : State) : Prop :=
  (s.PHASE = .idle ∨ s.PHASE = .pay) ∧ t.PHASE = .kxInit ∧ t.KEYED = false ∧
    t.S = s.S.set 0 s.cfg.magicP

/-- What each step of a KEYX writes of S and KEYED. -/
theorem KeyxStep.writes (h : KeyxStep s t) :
    t.S = s.S ∧ t.KEYED = s.KEYED ∨ StartsInit s t ∨ s.PHASE = .kxInit ∧ t.KEYED = s.KEYED ∨
      s.PHASE = .kxMix ∧
        (t.KEYED = s.KEYED ∨ t.KEYED = true ∧ t.PHASE = .resp ∧ t.ST = some stOK) := by
  cases h with
  | header len CW host hp h =>
    rcases keyxHeader_cases h with ⟨-, rfl⟩ | ⟨-, -, rfl⟩ | ⟨-, -, rfl⟩
    · have hframe := lengthError_outsideKeyx stInvalidKeyLength len
        { s.headerTaken CW host with RXCNT := some 0 }
      exact .inl ⟨hframe.S, hframe.KEYED⟩
    · exact .inl ⟨rfl, rfl⟩
    · exact .inr (.inl ⟨.inl hp, rfl, rfl, rfl⟩)
  | wait _ h => exact .inl ⟨h ▸ rfl, h ▸ rfl⟩
  | byte len v host hp _ h =>
    rcases keyxByte_cases h with ⟨n, L, -, -, ⟨-, rfl⟩ | ⟨-, rfl⟩⟩ | rfl
    · exact .inl ⟨rfl, rfl⟩
    · exact .inr (.inl ⟨.inr hp, rfl, rfl, rfl⟩)
    · exact .inl ⟨rfl, rfl⟩
  | init hp h =>
    rcases kxInitStep_cases h with ⟨n, S, -, -, ⟨-, rfl⟩ | ⟨-, rfl⟩⟩ | rfl <;>
      exact .inr (.inr (.inl ⟨hp, rfl⟩))
  | mix hp h =>
    rcases kxMixStep_cases h with
      ⟨a, b, i, j, k, m, -, -, -, -, -, -, ⟨-, rfl⟩ | ⟨-, rfl⟩⟩ | rfl
    · exact .inr (.inr (.inr ⟨hp, .inl rfl⟩))
    · exact .inr (.inr (.inr ⟨hp, .inr ⟨rfl, rfl, rfl⟩⟩))
    · exact .inr (.inr (.inr ⟨hp, .inl rfl⟩))

/-- What each step of the machine writes of S and KEYED. -/
theorem step_writes (h : step s = .next t) :
    s.host.moves.head? = some .reset ∧ t.KEYED = false ∨
      t.S = s.S ∧ t.KEYED = s.KEYED ∨ StartsInit s t ∨ s.PHASE = .kxInit ∧ t.KEYED = s.KEYED ∨
      s.PHASE = .kxMix ∧
        (t.KEYED = s.KEYED ∨ t.KEYED = true ∧ t.PHASE = .resp ∧ t.ST = some stOK) := by
  obtain ⟨-, -, ⟨-, rfl⟩ | ⟨-, ⟨hreset, rfl⟩ | ⟨-, u, hu, rfl⟩⟩⟩ := step_cases h
  · exact .inr (.inl ⟨rfl, rfl⟩)
  · exact .inl ⟨hreset, rfl⟩
  · rcases coreStep_schedule hu with hu | hu
    · exact .inr (.inl ⟨hu.S, hu.KEYED⟩)
    · exact .inr hu.writes

/-- Settles O46, by what each step writes. -/
theorem onlyKeyxAndResetWriteTheSchedule : Obligations.OnlyKeyxAndResetWriteTheSchedule := by
  intro s t h hne
  rcases step_writes h with ⟨hreset, -⟩ | ⟨hS, -⟩ | ⟨hp, hp', -, hS⟩ | ⟨hp, -⟩ | ⟨hp, -⟩
  · exact .inl hreset
  · exact absurd hS hne
  · exact .inr (.inr (.inr ⟨hp, hp', hS⟩))
  · exact .inr (.inl hp)
  · exact .inr (.inr (.inl hp))

/-- Settles O47, by what each step writes. -/
theorem keyedHasTheseWritersOnly : Obligations.KeyedHasTheseWritersOnly := by
  intro s t h hne
  rcases step_writes h with
    ⟨hreset, hK⟩ | ⟨-, hK⟩ | ⟨hp, hp', hK, -⟩ | ⟨-, hK⟩ | ⟨hp, hK | ⟨hK, hp', hst⟩⟩
  · exact .inl ⟨hK, .inl hreset⟩
  · exact absurd hK hne
  · exact .inl ⟨hK, .inr ⟨hp, hp'⟩⟩
  · exact absurd hK hne
  · exact absurd hK hne
  · exact .inr ⟨hK, hp, hp', hst⟩

end Sys2Proof.Machine
end

section
/-! PROOFS. Every step keeps the schedule invariant (R46): a step outside a KEYX keeps the
schedule, and each step of a KEYX goes on with the loops of Expand for one key. -/

namespace Sys2Proof.Machine

variable {s t : State} {K : List Byte}

/-! ### The clauses of the schedule invariant, phase by phase -/

/-- KEYED = 1 means S is the expansion of a key of b bytes (R46). -/
def State.KeyedInv (s : State) : Prop :=
  s.KEYED = true → ∃ K : List Byte, K.length = s.cfg.b ∧ expand s.cfg K = some s.S

theorem State.ScheduleInv.keyedInv (h : s.ScheduleInv) : s.KeyedInv := h.1

/-- No KEYX in progress: S alone matters. -/
theorem State.KeyedInv.of_outsideKeyx (hs : s.KeyedInv) (h : OutsideKeyx s t) : t.ScheduleInv := by
  refine ⟨fun hK => ?_, fun hp hc => absurd hc (h.notKey hp), fun hp => absurd hp h.notInit,
    fun hp => absurd hp h.notMix⟩
  rw [h.cfg, h.S]
  exact hs (h.KEYED.symm.trans hK)

/-- An idle core that is not keyed meets the schedule invariant. -/
theorem scheduleInv_of_idle (hp : s.PHASE = .idle) (hK : s.KEYED = false) : s.ScheduleInv := by
  have hself : OutsideKeyx s s := .of_phase rfl rfl rfl (by simp [hp])
  exact State.KeyedInv.of_outsideKeyx (s := s) (fun h => by simp [hK] at h) hself

/-- PAY of a KEYX: L holds the key bytes so far (R124). -/
theorem State.KeyedInv.scheduleInv_pay (hs : s.KeyedInv) (hp : s.PHASE = .pay)
    (hn : s.RXCNT = some K.length)
    (hL : placeKey s.cfg.u (List.replicate s.cfg.c (some 0)) 0 K = some s.L) : s.ScheduleInv :=
  ⟨hs, fun _ _ => ⟨K, hn, hL⟩, by simp [hp], by simp [hp]⟩

/-- KX_INIT: L is the packed key, and S agrees with Init's schedule below i (R125). -/
theorem scheduleInv_kxInit {n : Nat} {S : List (Option Word)} (hp : s.PHASE = .kxInit)
    (hK : s.KEYED = false) (hlen : K.length = s.cfg.b) (hL : pack s.cfg K = some s.L)
    (hn : s.i = some n) (hS : init s.cfg = some S) (htake : s.S.take n = S.take n) :
    s.ScheduleInv :=
  ⟨by simp [hK], by simp [hp], fun _ => ⟨K, hlen, hL, n, S, hn, hS, htake⟩, by simp [hp]⟩

/-- s with the variables of the mix after n iterations (R127). -/
def State.mixing (s : State) (m : MixVars) (n : Nat) : State :=
  { s with
    S := m.S, L := m.L, A := some m.A, B := some m.B, i := some m.i, j := some m.j, k := some n }

/-- KX_MIX: the working state is that of the mix after n iterations (R128). -/
theorem scheduleInv_mixing {n : Nat} {S L : List (Option Word)} {m : MixVars}
    (hp : s.PHASE = .kxMix) (hK : s.KEYED = false) (hlen : K.length = s.cfg.b)
    (hS : init s.cfg = some S) (hL : pack s.cfg K = some L)
    (hm : mixLoop s.cfg n (mixStart S L) = some m) : (s.mixing m n).ScheduleInv := by
  refine ⟨?keyed, ?pay, ?kxInit, fun _ => ⟨K, hlen, n, S, L, m, rfl, hS, hL, hm, ?vars⟩⟩
  case vars => exact ⟨rfl, rfl, rfl, rfl, rfl, rfl⟩
  all_goals simp [State.mixing, hp, hK]

/-- The start of Init, with the key of b bytes in L (R125). -/
theorem scheduleInv_startInit (hlegal : s.cfg.legal = true) (hlenS : s.S.length = s.cfg.t)
    (hlen : K.length = s.cfg.b) (hL : pack s.cfg K = some s.L) : (startInit s).ScheduleInv := by
  obtain ⟨S, hS, hinit⟩ := init_spec hlegal
  have ht := two_le_t s.cfg
  exact scheduleInv_kxInit (S := S) rfl rfl hlen hL rfl hS (hinit.take_one (by omega))

/-! ### The steps of a KEYX -/

/-- The header decode clears L, which holds the key bytes so far: none (R124). -/
theorem keyxHeader_keeps_scheduleInv {len : Nat} (hlegal : s.cfg.legal = true)
    (hlenS : s.S.length = s.cfg.t) (hs : s.KeyedInv) (h : keyxHeader len s = .next t) :
    t.ScheduleInv := by
  rcases keyxHeader_cases h with ⟨-, rfl⟩ | ⟨-, -, rfl⟩ | ⟨-, hzero, rfl⟩
  · exact hs.of_outsideKeyx ((lengthError_outsideKeyx ..).of_same rfl rfl rfl)
  · have hs' : { s with RXCNT := some 0, L := List.replicate s.cfg.c (some 0),
                         PHASE := .pay }.KeyedInv := hs
    exact hs'.scheduleInv_pay (K := []) rfl rfl rfl
  · have hlen : ([] : List Byte).length = s.cfg.b := hzero.symm
    have hL := (pack_eq hlegal hlen).trans (congrArg some (packedFrom_of_length_le _ (by simp)))
    exact scheduleInv_startInit (s := { s with RXCNT := some 0, L := _ }) hlegal hlenS hlen hL

/-- In PAY of a KEYX its length is b, and fewer than b key bytes have come (R40). -/
theorem State.Inv.pay_keyx {len : Nat} (hi : s.Inv) (hp : s.PHASE = .pay)
    (hc : currentInstr s = some (.keyx len)) :
    len = s.cfg.b ∧ ∃ n, s.RXCNT = some n ∧ n < s.cfg.b := by
  obtain ⟨⟨n, hn, ⟨hc', hlt, -⟩ | ⟨hc' | hc', -⟩⟩, -⟩ := hi.pay hp <;> rw [hc] at hc'
  · exact ⟨by simpa using hc', n, hn, hlt⟩
  · simp at hc'
  · simp at hc'

/-- A key byte adds itself to the key bytes so far; the last one makes L the packed key (R124). -/
theorem keyxByte_keeps_scheduleInv {v : Byte} (hi : s.Inv) (hs : s.ScheduleInv)
    (hp : s.PHASE = .pay) (hc : currentInstr s = some (.keyx s.cfg.b))
    (h : keyxByte s.cfg.b v s = .next t) : t.ScheduleInv := by
  have ⟨_, hpay, _⟩ := hs
  obtain ⟨K, hn, hL⟩ := hpay hp hc
  obtain ⟨-, n, hn', hlt⟩ := hi.pay_keyx hp hc
  obtain rfl : K.length = n := Option.some.inj (hn.symm.trans hn')
  have hb := hi.base
  have hpacked : packedFrom s.cfg K 0 = s.L :=
    Option.some.inj ((placeKey_eq hb.legal hlt.le).symm.trans hL)
  have hplace := placeKeyByte_packedFrom hb.legal v (keyWord_lt hb.legal hlt)
  rw [hpacked] at hplace
  have hlen : (K ++ [v]).length = K.length + 1 := by simp
  rw [keyxByte_of_values hn hplace] at h
  obtain rfl := Host.Outcome.next.inj h
  split
  case isTrue hlast =>
    exact scheduleInv_startInit (s := { s with L := _, RXCNT := _ }) hb.legal hb.lenS
      (hlen.trans hlast) (pack_eq hb.legal (hlen.trans hlast))
  case isFalse hlast =>
    have hs' : { s with L := packedFrom s.cfg (K ++ [v]) 0,
                         RXCNT := some (K.length + 1) }.KeyedInv := hs.keyedInv
    exact hs'.scheduleInv_pay hp (congrArg some hlen.symm)
      (placeKey_eq hb.legal (hlen.trans_le hlt))

/-- An Init step writes the entry of Init's schedule; the last one starts the mix on the whole of it
(R125, R126). -/
theorem kxInitStep_keeps_scheduleInv (hi : s.Inv) (hs : s.ScheduleInv) (hp : s.PHASE = .kxInit)
    (h : kxInitStep s = .next t) : t.ScheduleInv := by
  have hb := hi.base
  obtain ⟨⟨n, hn, hn1, hnt, -⟩, hkeyed, -⟩ := hi.kxInit hp
  obtain ⟨-, -, hinit, -⟩ := hs
  obtain ⟨K, hlen, hL, n', S, hn', hS, htake⟩ := hinit hp
  obtain rfl : n' = n := Option.some.inj (hn'.symm.trans hn)
  have hinit := initSchedule_of_init hb.legal hS
  obtain ⟨T, hT, hlenT, htakeT⟩ := hinit.take_succ hn1 hnt hb.lenS htake
  rw [kxInitStep_of_values hn hT] at h
  obtain rfl := Host.Outcome.next.inj h
  split
  case isTrue hlast =>
    obtain rfl : T = S := by
      rwa [hlast, List.take_of_length_le hlenT.le, List.take_of_length_le hinit.length.le]
        at htakeT
    exact scheduleInv_mixing (s := { s with PHASE := .kxMix }) (n := 0) rfl hkeyed hlen hS hL rfl
  case isFalse hlast => exact scheduleInv_kxInit hp hkeyed hlen hL rfl hS htakeT

/-- A mix step is the next iteration of the loop; the last one leaves Expand(K) in S (R128,
R130). -/
theorem kxMixStep_keeps_scheduleInv (hi : s.Inv) (hs : s.ScheduleInv) (hp : s.PHASE = .kxMix)
    (h : kxMixStep s = .next t) : t.ScheduleInv := by
  obtain ⟨-, hkeyed, -⟩ := hi.kxMix hp
  have ⟨_, _, _, hmix⟩ := hs
  obtain ⟨K, hlen, n, S, L, m, hn, hS, hL, hm, mS, mL, mA, mB, mi, mj⟩ := hmix hp
  rcases kxMixStep_cases h with
    ⟨a, b, i, j, k, m', hA, hB, hi, hj, hk, hm', hlast⟩ | rfl
  case inr => exact hs
  obtain rfl : n = k := Option.some.inj (hn.symm.trans hk)
  have hvars : m = { S := s.S, L := s.L, A := a, B := b, i := i, j := j } := by
    cases m
    simp_all
  have hloop : mixLoop s.cfg (n + 1) (mixStart S L) = some m' := by
    rw [mixLoop, hm, hvars]
    exact hm'
  rcases hlast with ⟨-, rfl⟩ | ⟨hlast, rfl⟩
  · exact scheduleInv_mixing hp hkeyed hlen hS hL hloop
  · have hexpand : (setKeyed { s with S := m'.S }).KeyedInv :=
      fun _ => ⟨K, hlen, expand_eq_some.2 ⟨L, S, m', hL, hS, hlast ▸ hloop, rfl⟩⟩
    exact hexpand.of_outsideKeyx (respond_outsideKeyx ..)

/-! ### Every step -/

theorem KeyxStep.keeps_scheduleInv (h : KeyxStep s t) (hi : s.Inv) (hs : s.ScheduleInv) :
    t.ScheduleInv := by
  have hb := hi.base
  cases h with
  | header len CW host hp h =>
    exact keyxHeader_keeps_scheduleInv (s := s.headerTaken CW host) hb.legal hb.lenS hs.keyedInv h
  | wait hp h => exact h ▸ hs
  | byte len v host hp hc h =>
    obtain ⟨rfl, -⟩ := hi.pay_keyx hp hc
    have hi' := inv_withHost hi host
    exact keyxByte_keeps_scheduleInv (s := { s with host := host }) hi' hs hp hc h
  | init hp h => exact kxInitStep_keeps_scheduleInv hi hs hp h
  | mix hp h => exact kxMixStep_keeps_scheduleInv hi hs hp h

/-- Settles O52: by the kinds of step, each core step being outside a KEYX or one of its steps. -/
theorem everyStepKeepsTheScheduleInvariant : Obligations.EveryStepKeepsTheScheduleInvariant := by
  intro s t hi hs h
  obtain ⟨-, -, ⟨-, rfl⟩ | ⟨-, ⟨-, rfl⟩ | ⟨-, u, hu, rfl⟩⟩⟩ := step_cases h
  · exact hs
  · exact scheduleInv_of_idle rfl rfl
  · rcases coreStep_schedule hu with hu | hu
    · have hkept := hs.keyedInv.of_outsideKeyx hu
      exact hkept
    · exact hu.keeps_scheduleInv hi hs

/-- Settles O53: reset leaves the core idle and unkeyed. -/
theorem resetMeetsTheScheduleInvariant : Obligations.ResetMeetsTheScheduleInvariant :=
  fun _ => scheduleInv_of_idle rfl rfl

end Sys2Proof.Machine
end

section
/-! PROOFS. Single steps around exec: a marked state, a header byte, what reset and respond
leave. -/

namespace Sys2Proof.Machine

variable {s t u : State}

/-- A step of a running core in IDLE whose host offers a byte takes it (R201). -/
theorem step_idle_offered {v : Byte} {rest : List Byte} (hrun : s.running) (hp : s.PHASE = .idle)
    (ho : s.offered v rest) : step s = onNext popMove (headerByte v (s.received rest)) := by
  obtain ⟨hf, hr, hl, hm⟩ := hrun
  rw [step_of_running hf hr hl hm, coreStep, byPhase_idle hp, recvByte_offered ho.1 ho.2]

/-- Settles O8: the step takes the byte, and fewer than three came before it. -/
theorem headerByteGoesToItsLane : Obligations.HeaderByteGoesToItsLane := by
  intro s v rest hrun hp hlt ho
  rcases headerByte_cases v (s.received rest) with ⟨-, e⟩ | ⟨hge, -⟩
  · rw [step_idle_offered hrun hp ho, e, onNext_next]
  · exact absurd hlt hge

/-- Settles O10: the step looks at the marks first, FAULT before REFUSED. -/
theorem markedStateHasNoFurtherStep : Obligations.MarkedStateHasNoFurtherStep := by
  intro s h f r
  constructor
  · intro hf
    simp [step, tick, hf]
  · intro hf hr
    simp [step, tick, hf, hr]

/-- An array of entries without a value. -/
theorem noneValued_replicate_none {α : Type} (n : Nat) :
    noneValued (List.replicate n (none : Option α)) :=
  fun _ ho => List.eq_of_mem_replicate ho ▸ rfl

/-- Settles O13: the registers by definition, the arrays by `noneValued_replicate_none`. -/
theorem resetStateHoldsTheResetValues : Obligations.ResetStateHoldsTheResetValues := by
  intro cfg
  have hempty : (State.resetFor cfg).workingEmpty :=
    ⟨noneValued_replicate_none _, rfl, rfl, rfl, rfl, rfl, rfl⟩
  exact ⟨rfl, rfl, rfl, noneValued_replicate_none _, List.length_replicate,
    noneValued_replicate_none _, rfl, rfl, noneValued_replicate_none _, rfl, rfl, hempty⟩

/-- The loaded bytes stand at the front of DATA (R41). -/
theorem entry_respond_DATA_of_lt {st : Byte} {data : List Byte} {n : Nat} (hn : n < data.length) :
    entry (respond st data s).DATA n = data[n]? := by
  simp [entry, List.getElem?_append_left, hn]

/-- DATA beyond the response keeps its content (R205). -/
theorem entry_respond_DATA_of_le {st : Byte} {data : List Byte} {n : Nat} (hn : data.length ≤ n) :
    entry (respond st data s).DATA n = entry s.DATA n := by
  simp [entry, List.getElem?_append_right, hn]

/-- Settles O14: the two parts of DATA, and the other fields by definition. -/
theorem respondLoadsTheResponse : Obligations.RespondLoadsTheResponse := by
  intro st data s
  exact ⟨rfl, fun n hn => entry_respond_DATA_of_lt hn, fun n hn _ => entry_respond_DATA_of_le hn,
    rfl, rfl, rfl, workingEmpty_respond .., List.length_replicate, rfl⟩

end Sys2Proof.Machine
end

section
/-! PROOFS. Runs of whole frames from a command boundary (R209): how steps chain into runs, and the
four steps that take a header. -/

namespace Sys2Proof.Machine

variable {s t u : State} {n m : Nat}

/-! ### Runs -/

/-- n steps of the machine lead from s to t. -/
def Runs (n : Nat) (s t : State) : Prop := Host.Core.run core n s = .next t

/-- A run of any machine starts with a step. -/
theorem core_run_succ {M : Host.Core} {s t : M.State} : M.run (n + 1) s = .next t ↔
    ∃ u, M.step s = .next u ∧ M.run n u = .next t := by
  rw [Host.Core.run]
  cases M.step s <;> simp

theorem runs_succ_iff : Runs (n + 1) s t ↔ ∃ u, step s = .next u ∧ Runs n u t :=
  core_run_succ (M := core)

theorem Runs.head (h : step s = .next u) (hr : Runs n u t) : Runs (n + 1) s t :=
  runs_succ_iff.2 ⟨u, h, hr⟩

theorem Runs.single (h : step s = .next t) : Runs 1 s t := .head h rfl

theorem Runs.trans (h₁ : Runs m s u) (h₂ : Runs n u t) : Runs (m + n) s t := by
  induction m generalizing s with
  | zero =>
    obtain rfl := Host.Outcome.next.inj h₁
    rwa [Nat.zero_add]
  | succ m ih =>
    obtain ⟨v, hv, hrun⟩ := runs_succ_iff.1 h₁
    rw [Nat.succ_add]
    exact .head hv (ih hrun)

/-- Two runs of one length from one state end in one state. -/
theorem Runs.unique (h₁ : Runs n s t) (h₂ : Runs n s u) : t = u :=
  Host.Outcome.next.inj (h₁.symm.trans h₂)

/-! ### Steps of a core whose host has no listed move -/

/-- No mark, a legal configuration, and a host that offers every byte it has. -/
def State.Quiet (s : State) : Prop :=
  s.FAULT = none ∧ s.REFUSED = none ∧ s.cfg.legal = true ∧ s.host.moves = []

theorem State.Quiet.legal (h : s.Quiet) : s.cfg.legal = true := h.2.2.1

theorem State.Quiet.moves (h : s.Quiet) : s.host.moves = [] := h.2.2.2

theorem State.Quiet.running (h : s.Quiet) : s.running := by
  obtain ⟨hf, hr, hl, hm⟩ := h
  exact ⟨hf, hr, hl, by simp [hm]⟩

theorem State.Quiet.hostOffers (h : s.Quiet) : hostOffers s = true := by
  simp [Machine.hostOffers, h.moves]

theorem popMove_of_moves (h : s.host.moves = []) : popMove s = s := by
  have hhost : { s.host with moves := s.host.moves.tail } = s.host := by
    rw [h, List.tail_nil, ← h]
  rw [popMove, hhost]

/-- Its step is the core's step. -/
theorem State.Quiet.step_eq (h : s.Quiet) (hu : coreStep s = .next u) (hm : u.host.moves = []) :
    step s = .next u := by
  obtain ⟨hf, hr, hl, hmoves⟩ := h.running
  rw [step_of_running hf hr hl hmoves, hu, onNext_next, popMove_of_moves hm]

theorem State.boundary.quiet {bytes : List Byte} (h : s.boundary bytes) : s.Quiet := by
  obtain ⟨hinv, hf, hr, -, -, hm, -⟩ := h
  exact ⟨hf, hr, hinv.base.legal, hm⟩

/-! ### The header -/

/-- s with n header bytes counted, CW holding them, and the bytes cmd still to be sent (R201). -/
def State.headerAt (s : State) (CW : List (Option Byte)) (n : Nat) (cmd : List Byte) : State :=
  { s with CW := CW, HDRCNT := n, host := { s.host with cmd := cmd } }

/-- At a boundary no header byte is counted yet. -/
theorem State.boundary.headerAt {bytes : List Byte} (h : s.boundary bytes) :
    s.headerAt s.CW 0 bytes = s := by
  obtain ⟨-, -, -, -, hcnt, -, -, hcmd⟩ := h
  calc s.headerAt s.CW 0 bytes
    _ = s.headerAt s.CW s.HDRCNT s.host.cmd := by rw [hcnt, hcmd]
    _ = s := rfl

/-- A header byte before the fourth (R201). -/
theorem step_headerAt {CW : List (Option Byte)} {v : Byte} {rest : List Byte} (hq : s.Quiet)
    (hp : s.PHASE = .idle) (hn : n < 3) :
    step (s.headerAt CW n (v :: rest)) = .next (s.headerAt (CW.set n (some v)) (n + 1) rest) := by
  have hq' : (s.headerAt CW n (v :: rest)).Quiet := hq
  have hm : (s.headerAt (CW.set n (some v)) (n + 1) rest).host.moves = [] := hq.moves
  rw [← popMove_of_moves hm]
  exact headerByteGoesToItsLane _ v rest hq'.running hp hn ⟨hq'.hostOffers, rfl⟩

/-- The fourth header byte completes CW, which is run (R202). -/
theorem coreStep_headerAt {CW : List (Option Byte)} {v : Byte} {rest : List Byte} (hq : s.Quiet)
    (hp : s.PHASE = .idle) : coreStep (s.headerAt CW 3 (v :: rest)) =
      runCommandWord (s.headerAt (CW.set 3 (some v)) 0 rest) := by
  have hq' : (s.headerAt CW 3 (v :: rest)).Quiet := hq
  have hp' : (s.headerAt CW 3 (v :: rest)).PHASE = .idle := hp
  rw [coreStep, byPhase_idle hp', recvByte_offered hq'.hostOffers rfl]
  rfl

/-- An encoded command decodes to itself (R82, R83). -/
theorem decodeWord_encodeWord {i : Instr} (hwf : i.wellFormed) :
    decodeWord (encodeWord i) = .ok i := by
  have hlen : lenOf (encodeWord i) = i.len := (lenOf_encodeWord i).trans (Nat.mod_eq_of_lt hwf)
  rw [decodeWord, opcOf_encodeWord, rsvOf_encodeWord, hlen]
  cases i <;> simp [opcFor, Instr.len]

/-- The command of an encoded header in CW. -/
theorem currentInstr_of_encode {i : Instr} (hwf : i.wellFormed)
    (hCW : s.CW = (encode i).map some) : currentInstr s = some i := by
  refine currentInstr_eq_some.2 ⟨encodeWord i, ?_, decodeWord_encodeWord hwf⟩
  rw [commandWord, hCW]
  exact congrArg some (wordOfBytes_bytesOfWord (encodeWord i))

/-- The four steps of a header end in the header decode of its command (R201, R202). -/
theorem runs_header {i : Instr} {rest : List Byte} (hwf : i.wellFormed)
    (hb : s.boundary (encode i ++ rest))
    (ht : exec i (s.headerAt ((encode i).map some) 0 rest) = .next t) (hm : t.host.moves = []) :
    Runs 4 s t := by
  have hq := State.boundary.quiet hb
  have hs := State.boundary.headerAt hb
  obtain ⟨hinv, -, -, hp, -⟩ := hb
  obtain ⟨b0, b1, b2, b3, hbytes⟩ : ∃ b0 b1 b2 b3, encode i = [b0, b1, b2, b3] :=
    ⟨_, _, _, _, rfl⟩
  obtain ⟨c0, c1, c2, c3, hCW⟩ : ∃ c0 c1 c2 c3, s.CW = [c0, c1, c2, c3] := by
    simpa [List.length_eq_four] using hinv.base.lenCW
  have hfourth : step (s.headerAt [b0, b1, b2, c3] 3 (b3 :: rest)) = .next t := by
    refine State.Quiet.step_eq (s := s.headerAt _ _ _) hq ?_ hm
    rw [coreStep_headerAt hq hp, ← ht, hbytes]
    exact runCommandWord_of_currentInstr (currentInstr_of_encode hwf (by rw [hbytes]; rfl))
  rw [← hs, hCW, hbytes]
  exact .head (step_headerAt hq hp (by decide)) <| .head (step_headerAt hq hp (by decide)) <|
    .head (step_headerAt hq hp (by decide)) <| .single hfourth

end Sys2Proof.Machine
end

section
/-! PROOFS. The run of a whole KEYX frame (R120, R209), phase by phase, and what of the key is left
after it (R47). -/

namespace Sys2Proof.Machine

variable {s t : State} {n : Nat} {K rest : List Byte} {S : List (Option Word)} {m m' : MixVars}

/-! ### Key bytes -/

/-- s in PAY of a KEYX with n key bytes taken, L holding them, and the bytes cmd still to be
sent. -/
def State.keyAt (s : State) (L : List (Option Word)) (n : Nat) (cmd : List Byte) : State :=
  { s with PHASE := .pay, RXCNT := some n, L := L, host := { s.host with cmd := cmd } }

/-- A step in PAY of a KEYX takes a key byte; the last one starts Init (R124, R203). -/
theorem step_keyAt {v : Byte} (hq : s.Quiet) (hc : currentInstr s = some (.keyx s.cfg.b))
    (hlt : K.length < s.cfg.b) :
    step (s.keyAt (packedFrom s.cfg K 0) K.length (v :: rest)) = .next
      (if K.length + 1 = s.cfg.b then
        startInit (s.keyAt (packedFrom s.cfg (K ++ [v]) 0) (K.length + 1) rest)
      else s.keyAt (packedFrom s.cfg (K ++ [v]) 0) (K.length + 1) rest) := by
  have hq' : (s.keyAt (packedFrom s.cfg K 0) K.length (v :: rest)).Quiet := hq
  have hc' : currentInstr (s.keyAt (packedFrom s.cfg K 0) K.length (v :: rest)) =
      some (.keyx s.cfg.b) := hc
  have hlegal : s.cfg.legal = true := hq.legal
  have hplace := placeKeyByte_packedFrom hlegal v (keyWord_lt hlegal hlt)
  refine hq'.step_eq ?_ ?_
  · rw [coreStep, byPhase_pay rfl, runCommandWord_of_currentInstr hc', exec_keyx, byPhase_pay rfl,
      recvByte_offered hq'.hostOffers rfl]
    exact keyxByte_of_values (s := s.keyAt (packedFrom s.cfg K 0) K.length rest) rfl hplace
  · split <;> exact hq.moves

/-- The rest K' of the key, its bytes taken one a step. -/
theorem runs_keyBytes {K' : List Byte} (hq : s.Quiet)
    (hc : currentInstr s = some (.keyx s.cfg.b)) (hne : K' ≠ [])
    (hlen : K.length + K'.length = s.cfg.b) :
    Runs K'.length (s.keyAt (packedFrom s.cfg K 0) K.length (K' ++ rest))
      (startInit (s.keyAt (packedFrom s.cfg (K ++ K') 0) s.cfg.b rest)) := by
  induction K' generalizing K with
  | nil => exact absurd rfl hne
  | cons v K' ih =>
    rw [List.length_cons] at hlen ⊢
    have hstep := step_keyAt (rest := K' ++ rest) (v := v) hq hc (K := K) (by omega)
    cases K' with
    | nil =>
      have hlast : K.length + 1 = s.cfg.b := by simpa using hlen
      rw [if_pos hlast] at hstep
      rw [← hlast]
      exact .single hstep
    | cons w K' =>
      rw [List.length_cons] at hlen
      rw [if_neg (by omega)] at hstep
      have hrest := ih (K := K ++ [v]) (List.cons_ne_nil w K') (by simp; omega)
      rw [List.append_assoc, List.length_append] at hrest
      exact .head hstep hrest

/-! ### Init and the mix -/

theorem coreStep_kxInit (hp : s.PHASE = .kxInit) : coreStep s = kxInitStep s := by
  simp [coreStep, byPhase, hp]

theorem coreStep_kxMix (hp : s.PHASE = .kxMix) : coreStep s = kxMixStep s := by
  simp [coreStep, byPhase, hp]

theorem coreStep_resp (hp : s.PHASE = .resp) : coreStep s = respStep s := by
  simp [coreStep, byPhase, hp]

/-- s in KX_INIT with T in S and n in i. -/
def State.initAt (s : State) (T : List (Option Word)) (n : Nat) : State :=
  { s with S := T, i := some n, PHASE := .kxInit }

/-- s in KX_MIX with A, B and the indices at 0 (R126). -/
def State.mixBegun (s : State) (T : List (Option Word)) : State :=
  { s with PHASE := .kxMix }.mixing (mixStart T s.L) 0

/-- A step in KX_INIT (R125). -/
theorem step_initAt {T T' : List (Option Word)} (hq : s.Quiet)
    (hT : initIteration s.cfg n T = some T') :
    step (s.initAt T n) = .next
      (if n + 1 = s.cfg.t then s.mixBegun T' else s.initAt T' (n + 1)) := by
  have hq' : (s.initAt T n).Quiet := hq
  refine hq'.step_eq ((coreStep_kxInit rfl).trans (kxInitStep_of_values rfl hT)) ?_
  split <;> exact hq.moves

/-- Init, its entries from n on written one a step (R125). -/
theorem runs_init {T : List (Option Word)} (hq : s.Quiet) (hS : InitSchedule s.cfg S) (d : Nat)
    (hn : 1 ≤ n) (hd : n + (d + 1) = s.cfg.t) (hlen : T.length = s.cfg.t)
    (htake : T.take n = S.take n) : Runs (d + 1) (s.initAt T n) (s.mixBegun S) := by
  induction d generalizing T n with
  | zero =>
    obtain ⟨T', hT, hlenT, htakeT⟩ := hS.take_succ hn (by omega) hlen htake
    obtain rfl : T' = S := by
      rwa [hd, List.take_of_length_le hlenT.le, List.take_of_length_le hS.length.le] at htakeT
    have hstep := step_initAt hq hT
    rw [if_pos hd] at hstep
    exact .single hstep
  | succ d ih =>
    obtain ⟨T', hT, hlenT, htakeT⟩ := hS.take_succ hn (by omega) hlen htake
    have hstep := step_initAt hq hT
    rw [if_neg (by omega)] at hstep
    exact .head hstep (ih (by omega) (by omega) hlenT htakeT)

/-- The mix, unfolded at its first iteration. -/
theorem mixLoop_succ_head (cfg : Config) (n : Nat) (m : MixVars) :
    mixLoop cfg (n + 1) m = (mixIteration cfg m).bind (mixLoop cfg n) := by
  induction n with
  | zero => simp [mixLoop]
  | succ n ih =>
    rw [mixLoop, ih]
    cases mixIteration cfg m <;> rfl

/-- s after the commit of a mix that left S (R130). -/
def State.committed (s : State) (S : List (Option Word)) : State :=
  respond stOK [] (setKeyed { s with S := S })

/-- A step in KX_MIX (R127, R130). -/
theorem step_mixing (hq : s.Quiet) (hp : s.PHASE = .kxMix) (hm : mixIteration s.cfg m = some m') :
    step (s.mixing m n) = .next
      (if n + 1 = s.cfg.nMix then s.committed m'.S else s.mixing m' (n + 1)) := by
  have hq' : (s.mixing m n).Quiet := hq
  have hp' : (s.mixing m n).PHASE = .kxMix := hp
  have hmix := kxMixStep_of_values (s := s.mixing m n) rfl rfl rfl rfl rfl hm
  refine hq'.step_eq ((coreStep_kxMix hp').trans hmix) ?_
  split <;> exact hq.moves

/-- The mix from iteration n on, one iteration a step, and the commit (R128). -/
theorem runs_mix (hq : s.Quiet) (hp : s.PHASE = .kxMix) (d : Nat) (hd : n + (d + 1) = s.cfg.nMix)
    (hm : mixLoop s.cfg (d + 1) m = some m') : Runs (d + 1) (s.mixing m n) (s.committed m'.S) := by
  induction d generalizing m n with
  | zero =>
    rw [mixLoop_succ_head] at hm
    obtain ⟨m₁, h₁, hm⟩ := Option.bind_eq_some_iff.1 hm
    obtain rfl := Option.some.inj hm
    have hstep := step_mixing (n := n) hq hp h₁
    rw [if_pos hd] at hstep
    exact .single hstep
  | succ d ih =>
    rw [mixLoop_succ_head] at hm
    obtain ⟨m₁, h₁, hm⟩ := Option.bind_eq_some_iff.1 hm
    have hstep := step_mixing (n := n) hq hp h₁
    rw [if_neg (by omega)] at hstep
    exact .head hstep (ih (by omega) hm)

/-! ### The whole frame -/

/-- What a KEYX of b bytes makes of the boundary state s: the registers of its header and its
response, the schedule S, and no working state (R47, R120, R205). -/
def State.keyxDone (s : State) (S : List (Option Word)) (rest : List Byte) : State :=
  { s with
    S := S
    KEYED := true
    CW := (encode (.keyx s.cfg.b)).map some
    RXCNT := some s.cfg.b
    ST := some stOK
    RLEN := some 0
    TXCNT := some 1
    L := List.replicate s.cfg.c none
    A := none
    B := none
    i := none
    j := none
    k := none
    rnd := none
    PHASE := .idle
    HDRCNT := 0
    host := { s.host with cmd := rest, got := s.host.got ++ [stOK] } }

/-- s with the header of a KEYX of b bytes taken. -/
def State.keyxHeaded (s : State) (cmd : List Byte) : State :=
  s.headerAt ((encode (.keyx s.cfg.b)).map some) 0 cmd

theorem keyx_wellFormed (hlegal : s.cfg.legal = true) : (Instr.keyx s.cfg.b).wellFormed :=
  lt_of_le_of_lt (legal_keyBytes hlegal) (by decide)

/-- The header decode of a KEYX of b bytes: PAY with no key byte yet, or Init at once (R121,
R202). -/
theorem exec_keyxHeaded (hp : s.PHASE = .idle) (cmd : List Byte) :
    exec (.keyx s.cfg.b) (s.keyxHeaded cmd) = .next
      (if s.cfg.b = 0 then startInit ((s.keyxHeaded cmd).keyAt (packedFrom s.cfg [] 0) 0 cmd)
      else (s.keyxHeaded cmd).keyAt (packedFrom s.cfg [] 0) 0 cmd) := by
  have hp' : (s.keyxHeaded cmd).PHASE = .idle := hp
  rw [exec_keyx, byPhase_idle hp', packedFrom_of_length_le (K := []) s.cfg (Nat.le_refl 0)]
  by_cases hzero : s.cfg.b = 0
  · rw [if_pos hzero]
    exact (if_neg (not_not.2 rfl)).trans (if_pos hzero)
  · rw [if_neg hzero]
    exact (if_neg (not_not.2 rfl)).trans (if_neg hzero)

/-- The frame of a KEYX of b bytes, up to the start of Init (R121, R124, R125). -/
theorem runs_keyxFrame (hlen : K.length = s.cfg.b)
    (hb : s.boundary (encode (.keyx s.cfg.b) ++ K ++ rest)) : Runs (4 + s.cfg.b) s
      (startInit ((s.keyxHeaded rest).keyAt (packedFrom s.cfg K 0) s.cfg.b rest)) := by
  have hq := State.boundary.quiet hb
  have ⟨_, _, _, hp, _⟩ := hb
  have hwf := keyx_wellFormed hq.legal
  rw [List.append_assoc] at hb
  have hdecode := exec_keyxHeaded hp (K ++ rest)
  have hheader : Runs 4 s _ := runs_header hwf hb hdecode (by split <;> exact hq.moves)
  by_cases hzero : s.cfg.b = 0
  · obtain rfl : K = [] := List.length_eq_zero_iff.1 (hlen.trans hzero)
    rw [if_pos hzero] at hheader
    rw [hzero]
    exact hheader
  · rw [if_neg hzero] at hheader
    have hc : currentInstr (s.keyxHeaded rest) = some (.keyx s.cfg.b) :=
      currentInstr_of_encode hwf rfl
    have hne : K ≠ [] := by
      rintro rfl
      exact hzero hlen.symm
    have hbytes := runs_keyBytes (s := s.keyxHeaded rest) (K := []) (K' := K) (rest := rest)
      hq hc hne ((Nat.zero_add _).trans hlen)
    rw [hlen] at hbytes
    exact hheader.trans hbytes

/-- The one response byte of a KEYX (R206). -/
theorem step_committed (hq : s.Quiet) (ht : s.host.takes = true) : step (s.committed S) = .next
    (sendByte stOK { s.committed S with TXCNT := some 1, PHASE := .idle }) := by
  have hq' : (s.committed S).Quiet := hq
  have ht' : hostTakes (s.committed S) = true := by
    have hm : (s.committed S).host.moves = [] := hq.moves
    rw [hostTakes, hm]
    exact ht
  exact hq'.step_eq ((coreStep_resp rfl).trans (respStep_of_values ht' rfl rfl rfl)) hq.moves

/-- From the start of Init, with the key in L, to the response: Init and the whole mix leave
Expand(K) in S (R125, R128, R130). -/
theorem runs_expand (hq : s.Quiet) (hlenS : s.S.length = s.cfg.t) (hlen : K.length = s.cfg.b)
    (hL : s.L = packedFrom s.cfg K 0) :
    ∃ S, expand s.cfg K = some S ∧ Runs (s.cfg.t - 1 + s.cfg.nMix) (startInit s)
      ({ startInit s with PHASE := .kxMix }.committed S) := by
  have hlegal : s.cfg.legal = true := hq.legal
  obtain ⟨S, hS, hinit⟩ := init_spec hlegal
  obtain ⟨m, hm, -⟩ := (full_mixStart hlegal hinit K).mixLoop hlegal s.cfg.nMix
  refine ⟨m.S, expand_eq_some.2 ⟨_, S, m, pack_eq hlegal hlen, hS, hm, rfl⟩, ?_⟩
  have ht := two_le_t s.cfg
  have hmix := nMix_pos s.cfg
  obtain ⟨d, hd⟩ : ∃ d, s.cfg.t - 1 = d + 1 := ⟨s.cfg.t - 2, by omega⟩
  obtain ⟨e, he⟩ : ∃ e, s.cfg.nMix = e + 1 := ⟨s.cfg.nMix - 1, by omega⟩
  have hinitRun := runs_init (s := startInit s) (T := s.S.set 0 s.cfg.magicP) (n := 1) hq hinit d
    le_rfl (show 1 + (d + 1) = s.cfg.t by omega) (List.length_set.trans hlenS)
    (hinit.take_one (by omega))
  have hmixRun := runs_mix (s := { startInit s with PHASE := .kxMix }) (n := 0)
    (m := mixStart S s.L) hq rfl e (show 0 + (e + 1) = s.cfg.nMix by omega) (hL ▸ he ▸ hm)
  rw [hd, he]
  exact hinitRun.trans hmixRun

/-- A whole KEYX frame: the exact state it ends in, with Expand(K) in S (R120, R209). -/
theorem runs_keyx (hlen : K.length = s.cfg.b)
    (hb : s.boundary (encode (.keyx s.cfg.b) ++ K ++ rest)) :
    ∃ S, expand s.cfg K = some S ∧
      Runs (4 + s.cfg.b + (s.cfg.t - 1) + s.cfg.nMix + 1) s (s.keyxDone S rest) := by
  have hframe := runs_keyxFrame hlen hb
  have hq := State.boundary.quiet hb
  obtain ⟨hinv, -, -, -, -, -, htakes, -⟩ := hb
  obtain ⟨S, hS, hexpand⟩ := runs_expand (K := K)
    (s := (s.keyxHeaded rest).keyAt (packedFrom s.cfg K 0) s.cfg.b rest) hq hinv.base.lenS hlen rfl
  refine ⟨S, hS, ?_⟩
  rw [Nat.add_assoc (4 + s.cfg.b)]
  exact (hframe.trans hexpand).trans (.single (step_committed hq htakes))

/-- A boundary with other bytes to send. -/
theorem State.boundary.received {bytes bytes' : List Byte} (h : s.boundary bytes) :
    (s.received bytes').boundary bytes' := by
  obtain ⟨hinv, hf, hr, hp, hcnt, hm, htakes, -⟩ := h
  exact ⟨inv_withHost hinv _, hf, hr, hp, hcnt, hm, htakes, rfl⟩

/-- Settles O59: both runs end in the state `runs_keyx` gives, which names the key in S only. -/
theorem keyLeavesNoTraceButTheSchedule : Obligations.KeyLeavesNoTraceButTheSchedule := by
  intro s t t' K K' rest hlen hlen' hb ht ht'
  have hb' := State.boundary.received (bytes' := encode (.keyx s.cfg.b) ++ K' ++ rest) hb
  obtain ⟨S, -, hrun⟩ := runs_keyx hlen hb
  obtain ⟨S', -, hrun'⟩ := runs_keyx
    (s := s.received (encode (.keyx s.cfg.b) ++ K' ++ rest)) (rest := rest) hlen' hb'
  obtain rfl := Runs.unique ht hrun
  obtain rfl := Runs.unique ht' hrun'
  rfl

end Sys2Proof.Machine
end

section
/-! PROOFS. A byte-lane write, bit by bit (R67): the written word is the bits above the lane, the
byte and the bits below it, one after another. -/

namespace Sys2Proof.Machine

/-- The written word in binary concatenation form, the lowest part last. -/
theorem setByteLane_eq_concat (x : Word) (q : Nat) (v : Byte) :
    setByteLane x q v =
      2 ^ (8 * q) * (2 ^ 8 * (x / 2 ^ (8 * q + 8)) + v.toNat) + x % 2 ^ (8 * q) := by
  rw [setByteLane, Nat.mul_succ, pow_add]
  ring

/-- Settles O34: bit m lies below the lane, in it or above it, and each part of
`setByteLane_eq_concat` answers for its own bits. -/
theorem byteLaneWriteIsLocal : Obligations.ByteLaneWriteIsLocal := by
  intro x q v m
  have hlow : x % 2 ^ (8 * q) < 2 ^ (8 * q) := Nat.mod_lt _ (Nat.two_pow_pos _)
  rw [setByteLane_eq_concat, Nat.testBit_two_pow_mul_add _ hlow]
  by_cases hbelow : m < 8 * q
  · rw [if_pos hbelow, if_neg (by omega), Nat.testBit_mod_two_pow, decide_eq_true hbelow,
      Bool.true_and]
  · rw [if_neg hbelow, Nat.testBit_two_pow_mul_add _ v.isLt]
    by_cases hlane : m < 8 * q + 8
    · rw [if_pos (by omega), if_pos ⟨by omega, hlane⟩, BitVec.testBit_toNat]
    · have habove : 8 * q + 8 + (m - 8 * q - 8) = m := by omega
      rw [if_neg (by omega), if_neg (by omega), Nat.testBit_div_two_pow, Nat.add_comm, habove]

end Sys2Proof.Machine
end

section
/-! PROOFS. The decoder word by word (R82 to R85, R90): a command word is its three fields, each answer
of the decoder says what the fields are, and so decoding and encoding invert each other. -/

namespace Sys2Proof

open Sys2Proof.Machine

variable {cw : BitVec 32} {i : Instr}

/-! ### A command word and its fields -/

/-- A command word is its LEN, RSV and OPC side by side (R82). -/
theorem fields_append (cw : BitVec 32) :
    BitVec.ofNat 16 (lenOf cw) ++ rsvOf cw ++ opcOf cw = cw := by
  apply BitVec.eq_of_getLsbD_eq
  intro n hn
  have hlen : BitVec.ofNat 16 (lenOf cw) = cw.extractLsb' 16 16 :=
    BitVec.eq_of_toNat_eq (by simp [lenOf])
  refine (getLsbD_fields ..).trans ?_
  by_cases h8 : n < 8
  · simp [opcOf, h8]
  · by_cases h16 : n < 16
    · simp [rsvOf, h8, h16, show n - 8 < 8 by omega, show 8 + (n - 8) = n by omega]
    · simp [hlen, h8, h16, show n - 16 < 16 by omega, show 16 + (n - 16) = n by omega]

theorem opcOf_wordOfBytes (b0 b1 b2 b3 : Byte) : opcOf (wordOfBytes b0 b1 b2 b3) = b0 := by
  apply BitVec.eq_of_getLsbD_eq
  intro n hn
  simp [opcOf, getLsbD_wordOfBytes, hn]

theorem rsvOf_wordOfBytes (b0 b1 b2 b3 : Byte) : rsvOf (wordOfBytes b0 b1 b2 b3) = b1 := by
  apply BitVec.eq_of_getLsbD_eq
  intro n hn
  simp [rsvOf, getLsbD_wordOfBytes, hn, show ¬ 8 + n < 8 by omega, show 8 + n < 16 by omega]

/-! ### What each answer of the decoder says -/

/-- The decoder's test of OPC: no command has it (R83). -/
theorem opcode_notMem {opc : Byte} :
    opc ∉ [0x01#8, 0x02#8, 0x03#8] ↔ opc ≠ 0x01#8 ∧ opc ≠ 0x02#8 ∧ opc ≠ 0x03#8 := by
  simp

theorem decodeWord_eq_opcode :
    decodeWord cw = .error .opcode ↔ opcOf cw ∉ [0x01#8, 0x02#8, 0x03#8] := by
  rw [opcode_notMem, decodeWord]
  split_ifs with hopc <;> simp [hopc]

theorem decodeWord_eq_rsv :
    decodeWord cw = .error .rsv ↔ opcOf cw ∈ [0x01#8, 0x02#8, 0x03#8] ∧ rsvOf cw ≠ 0x00#8 := by
  rw [← not_not (a := opcOf cw ∈ _), opcode_notMem, decodeWord]
  split_ifs with hopc hrsv
  · simp [hopc]
  · simp [hopc, hrsv]
  all_goals simp [hrsv]

/-- A command is read exactly from the word of its fields (R83, R85). -/
theorem decodeWord_eq_ok :
    decodeWord cw = .ok i ↔ opcOf cw = opcFor i ∧ rsvOf cw = 0x00#8 ∧ lenOf cw = i.len := by
  constructor
  · intro h
    unfold decodeWord at h
    split_ifs at h with hopc hrsv hkeyx henc <;> cases h
    · exact ⟨hkeyx, not_not.1 hrsv, rfl⟩
    · exact ⟨henc, not_not.1 hrsv, rfl⟩
    · have hdec : opcOf cw = 0x03#8 := by simpa [hkeyx, henc] using hopc
      exact ⟨hdec, not_not.1 hrsv, rfl⟩
  · rintro ⟨hopc, hrsv, hlen⟩
    rw [decodeWord, hopc, hrsv, hlen]
    cases i <;> simp [opcFor, Instr.len]

/-- Settles O3, by what each answer of the decoder says. -/
theorem reservedHeadersAreExactlyThese : Obligations.ReservedHeadersAreExactlyThese := by
  intro cw
  refine ⟨decodeWord_eq_opcode, decodeWord_eq_rsv, ?_, ?_, ?_⟩ <;>
    simp [decodeWord_eq_ok, opcFor, Instr.len]

/-! ### Encoding and decoding -/

/-- LEN fits its 16-bit field (R85). -/
theorem lenOf_lt (cw : BitVec 32) : lenOf cw < 65536 := BitVec.isLt _

/-- Settles O2: the fields of the word are those of the command, and a word is its fields. -/
theorem encodeOfDecodeIsTheWord : Obligations.EncodeOfDecodeIsTheWord := by
  intro cw i h
  obtain ⟨hopc, hrsv, hlen⟩ := decodeWord_eq_ok.1 h
  refine ⟨hlen.symm.trans_lt (lenOf_lt cw), ?_⟩
  rw [encodeWord, ← hopc, ← hrsv, ← hlen, fields_append]

/-- Four header bytes are decoded as their word (R81). -/
theorem decode_bytesOfWord (h : decodeWord cw = .ok i) (rest : List Byte) :
    decode (bytesOfWord cw ++ rest) = .ok (i, rest) := by
  simp [decode, bytesOfWord, wordOfBytes_bytesOfWord, h]

/-- Settles O1: the header bytes make the encoded word again, which decodes to its command. -/
theorem decodeOfEncodeIsTheCommand : Obligations.DecodeOfEncodeIsTheCommand :=
  fun _ rest hwf => decode_bytesOfWord (decodeWord_encodeWord hwf) rest

/-- Settles O5: each row is evaluated. -/
theorem workedEncodingsDecode : Obligations.WorkedEncodingsDecode := by
  unfold Obligations.WorkedEncodingsDecode
  decide

/-! ### Whole frames -/

theorem encodeFrame_length (f : Frame) : (encodeFrame f).length = 4 + f.payload.length := by
  rw [encodeFrame, List.length_append]
  rfl

/-- A well-formed frame is read back from its bytes, whatever follows them (R81, R86). -/
theorem decodeFrame_encodeFrame {f : Frame} (hf : f.wellFormed) (rest : List Byte) :
    decodeFrame (encodeFrame f ++ rest) = .ok (f, rest) := by
  obtain ⟨hwf, hlen⟩ := hf
  rw [decodeFrame, encodeFrame, List.append_assoc, decodeOfEncodeIsTheCommand _ _ hwf]
  simp [← hlen]

/-- A mnemonic with up to 65535 bytes is assembled to one frame of that LEN (R86, R91). -/
theorem assembleCommand_frame {mk : Nat → Instr} (hmk : ∀ n, (mk n).len = n) {bytes : List Byte}
    (hlt : bytes.length < 65536) (rest : List Byte) :
    ∃ f, assembleCommand mk bytes = some f ∧ f.length = 4 + bytes.length ∧
      decodeFrame (f ++ rest) = .ok (⟨mk bytes.length, bytes⟩, rest) := by
  have hwf : (⟨mk bytes.length, bytes⟩ : Frame).wellFormed := ⟨by simpa [hmk], (hmk _).symm⟩
  exact ⟨_, if_pos hlt, encodeFrame_length _, decodeFrame_encodeFrame hwf rest⟩

theorem assembleCommand_eq_none (mk : Nat → Instr) {bytes : List Byte}
    (hge : 65536 ≤ bytes.length) : assembleCommand mk bytes = none := if_neg hge.not_gt

/-- Settles O4: each mnemonic's line is its `assembleCommand`. -/
theorem assembledLineIsOneFrame : Obligations.AssembledLineIsOneFrame := by
  intro bytes rest
  refine ⟨fun hlt => ⟨?_, ?_, ?_⟩, fun hge => ⟨?_, ?_, ?_⟩⟩
  · exact assembleCommand_frame (mk := .keyx) (fun _ => rfl) hlt rest
  · exact assembleCommand_frame (mk := .enc) (fun _ => rfl) hlt rest
  · exact assembleCommand_frame (mk := .dec) (fun _ => rfl) hlt rest
  all_goals exact assembleCommand_eq_none _ hge

/-! ### Table words -/

/-- Byte k of a word is byte k of its number. -/
theorem byteOfWord_ofNat {k : Nat} (hk : k < 4) (v : Nat) :
    byteOfWord (BitVec.ofNat 32 v) k = BitVec.ofNat 8 (v / 2 ^ (8 * k)) := by
  apply BitVec.eq_of_getLsbD_eq
  intro n hn
  rw [getLsbD_byteOfWord, BitVec.getLsbD_ofNat, BitVec.getLsbD_ofNat, Nat.testBit_div_two_pow]
  rw [decide_eq_true hn, decide_eq_true (show 8 * k + n < 32 by omega), Nat.add_comm n,
    Bool.true_and]

theorem bytesFrom_header (v : Nat) : bytesFrom v 0 4 = bytesOfWord (BitVec.ofNat 32 v) := by
  simp only [bytesFrom, bytesOfWord, byteOfWord_ofNat (show 0 < 4 by decide),
    byteOfWord_ofNat (show 1 < 4 by decide), byteOfWord_ofNat (show 2 < 4 by decide),
    byteOfWord_ofNat (show 3 < 4 by decide)]

theorem bytesFrom_length (v k n : Nat) : (bytesFrom v k n).length = n := by
  induction n generalizing k with
  | zero => rfl
  | succ n ih => rw [bytesFrom, List.length_cons, ih]

/-- A table word's frame: the header of its low 32 bits, then LEN payload bytes. -/
theorem tableFrame_eq (nbits w : Nat) :
    tableFrame nbits w = bytesOfWord (BitVec.ofNat 32 (w % 2 ^ nbits)) ++
      bytesFrom (w % 2 ^ nbits) 4 (lenOf (BitVec.ofNat 32 (w % 2 ^ nbits))) := by
  rw [tableFrame, bytesFrom_header]

/-- A table word is read as the command of its low 32 bits. -/
theorem decodeTableWord_eq_some {nbits w : Nat} :
    decodeTableWord nbits w = some i ↔ decodeWord (BitVec.ofNat 32 (w % 2 ^ nbits)) = .ok i := by
  rw [decodeTableWord, tableFrame_eq]
  cases h : decodeWord (BitVec.ofNat 32 (w % 2 ^ nbits)) with
  | ok i' => simp [decode_bytesOfWord h]
  | error why => simp [decode, bytesOfWord, wordOfBytes_bytesOfWord, h]

end Sys2Proof
end

section
/-! PROOFS. The step that takes the fourth header byte (R202): it runs the command of the completed CW,
or refuses a reserved one by name (R90). -/

namespace Sys2Proof.Machine

variable {s : State} {cw : BitVec 32} {b0 b1 b2 v : Byte} {rest : List Byte}

/-- s with the fourth header byte v taken and the bytes `rest` after it. -/
def State.headerDone (s : State) (v : Byte) (rest : List Byte) : State :=
  { s.received rest with CW := s.CW.set 3 (some v), HDRCNT := 0 }

theorem step_fourthHeaderByte (hrun : s.running) (hp : s.PHASE = .idle) (hcnt : s.HDRCNT = 3)
    (ho : s.offered v rest) : step s = onNext popMove (runCommandWord (s.headerDone v rest)) := by
  rw [step_idle_offered hrun hp ho]
  rcases headerByte_cases v (s.received rest) with ⟨hlt, -⟩ | ⟨-, e⟩
  · exact absurd hlt (by simp [hcnt])
  · rw [e, hcnt]; rfl

/-- CW is the word of the four header bytes (R39, R81). -/
theorem commandWord_headerDone (hlen : s.CW.length = 4) (h0 : entry s.CW 0 = some b0)
    (h1 : entry s.CW 1 = some b1) (h2 : entry s.CW 2 = some b2) (v : Byte) (rest : List Byte) :
    commandWord (s.headerDone v rest) = some (wordOfBytes b0 b1 b2 v) := by
  have h3 : entry (s.CW.set 3 (some v)) 3 = some v := entry_set_self _ (by omega)
  simp [commandWord, State.headerDone, entry_set_other, h0, h1, h2, h3]

/-! ### A command placed where the next step runs it -/

/-- The step of a placed frame is the command of its header (R202). -/
theorem step_placeFrame {i : Instr} (hf : s.FAULT = none) (hr : s.REFUSED = none)
    (hl : s.cfg.legal = true) (hd : decodeWord cw = .ok i) (payload : List Byte) :
    step (placeFrame s (bytesOfWord cw ++ payload)) = onNext popMove
      (exec i { (placeFrame s (bytesOfWord cw ++ payload)).received (payload ++ s.host.cmd) with
        CW := (bytesOfWord cw).map some, HDRCNT := 0 }) := by
  have hrun : (placeFrame s (bytesOfWord cw ++ payload)).running :=
    ⟨hf, hr, hl, by simp [placeFrame, bytesOfWord]⟩
  have ho : (placeFrame s (bytesOfWord cw ++ payload)).offered (byteOfWord cw 3)
      (payload ++ s.host.cmd) := ⟨rfl, rfl⟩
  rw [step_fourthHeaderByte hrun rfl rfl ho]
  refine congrArg (onNext popMove) (runCommandWord_of_currentInstr ?_)
  exact currentInstr_eq_some.2 ⟨cw, congrArg some (wordOfBytes_bytesOfWord cw), hd⟩

/-- Settles O7: the placed frame is the header of the word's low 32 bits and LEN payload bytes. -/
theorem placedCommandRunsNext : Obligations.PlacedCommandRunsNext := by
  intro s nbits w i hf hr hl h
  have hd := decodeTableWord_eq_some.1 h
  refine ⟨hd, bytesFrom_length .., ?_⟩
  rw [State.withFetchWord, tableFrame_eq, len_of_decodeWord hd]
  exact step_placeFrame hf hr hl hd _

/-! ### A reserved header -/

/-- The refusal of a reserved header (R90, R235). -/
def refusalOf : Reserved → Refusal
  | .opcode => .refOpcode
  | .rsv => .refRsv

theorem runCommandWord_of_reserved {why : Reserved} (hcw : commandWord s = some cw)
    (hd : decodeWord cw = .error why) :
    runCommandWord s = .next { s with REFUSED := some (refusalOf why) } := by
  cases why <;> simp [runCommandWord, hcw, hd, refuse, refusalOf]

/-- The fourth byte of a reserved header marks the refusal, and the core stops (R45, R202). -/
theorem step_reservedHeader {why : Reserved} (hrun : s.running) (hp : s.PHASE = .idle)
    (hcnt : s.HDRCNT = 3) (ho : s.offered v rest)
    (hcw : commandWord (s.headerDone v rest) = some cw) (hd : decodeWord cw = .error why) :
    ∃ t, step s = .next t ∧ step t = .refused (refusalOf why) ∧
      t = popMove { s.headerDone v rest with REFUSED := some (refusalOf why) } := by
  refine ⟨_, ?_, ?_, rfl⟩
  · rw [step_fourthHeaderByte hrun hp hcnt ho, runCommandWord_of_reserved hcw hd, onNext_next]
  · obtain ⟨hf, -⟩ := hrun
    exact (markedStateHasNoFurtherStep _ _ .noValue _).2 hf rfl

/-- Settles O9: the first header byte is OPC and the second RSV, and the decoder names the reason. -/
theorem reservedHeaderIsRefused : Obligations.ReservedHeaderIsRefused := by
  intro s b0 b1 b2 v rest hrun hp hcnt hlen h0 h1 h2 ho
  have hcw := commandWord_headerDone hlen h0 h1 h2 v rest
  constructor
  · intro hopc
    exact step_reservedHeader hrun hp hcnt ho hcw
      (decodeWord_eq_opcode.2 (by rwa [opcOf_wordOfBytes]))
  · intro hopc hrsv
    exact step_reservedHeader hrun hp hcnt ho hcw
      (decodeWord_eq_rsv.2 (by rw [opcOf_wordOfBytes, rsvOf_wordOfBytes]; exact ⟨hopc, hrsv⟩))

end Sys2Proof.Machine
end

section
/-! PROOFS. The word datapath (40_word_datapath.md, R106 to R110): where a rotation moves each bit, and
the laws that follow. -/

namespace Sys2Proof.Machine

variable {w x x' y z : Nat}

/-! ### The amount of a rotation -/

/-- Each width of R5 divides the modulus of its words. -/
theorem width_dvd_two_pow (hw : w ∈ [8, 16, 32, 64]) : w ∣ 2 ^ w := by
  revert w
  decide

theorem rolW_congr (x : Nat) (h : rotAmount w y = rotAmount w z) : rolW w x y = rolW w x z := by
  simp only [rolW, h]

theorem rorW_congr (x : Nat) (h : rotAmount w y = rotAmount w z) : rorW w x y = rorW w x z := by
  simp only [rorW, h]

theorem rolW_of_rotAmount_zero (x : Nat) (h : rotAmount w y = 0) : rolW w x y = x := if_pos h

theorem rorW_of_rotAmount_zero (x : Nat) (h : rotAmount w y = 0) : rorW w x y = x := if_pos h

/-- R106: wrapping a sum at 2^w does not change it modulo a divisor of 2^w. -/
theorem rotAmount_addW (h : w ∣ 2 ^ w) (y z : Nat) : rotAmount w (addW w y z) = (y + z) % w :=
  Nat.mod_mod_of_dvd _ h

/-- Turning on by what is missing to a full turn undoes a turn by y. -/
theorem add_rest_add_mod (hw : 0 < w) (n y : Nat) : (n + (w - rotAmount w y) + y) % w = n % w := by
  have hs : rotAmount w y ≤ w := (Nat.mod_lt y hw).le
  calc (n + (w - rotAmount w y) + y) % w
      = (n + (w - rotAmount w y) + rotAmount w y) % w := (Nat.add_mod_mod _ y w).symm
    _ = n % w := by rw [Nat.add_assoc, Nat.sub_add_cancel hs, Nat.add_mod_right]

/-- R108: rotating right is rotating left by what is missing to a full turn. -/
theorem rorW_eq_rolW (hw : 0 < w) (x y : Nat) : rorW w x y = rolW w x (w - rotAmount w y) := by
  by_cases hs : rotAmount w y = 0
  · have hfull : rotAmount w (w - rotAmount w y) = 0 := by rw [hs]; exact Nat.mod_self w
    rw [rorW_of_rotAmount_zero x hs, rolW_of_rotAmount_zero x hfull]
  · have hlt : rotAmount w y < w := Nat.mod_lt y hw
    have hrest : rotAmount w (w - rotAmount w y) = w - rotAmount w y := Nat.mod_eq_of_lt (by omega)
    rw [rorW, if_neg hs, rolW, hrest, if_neg (by omega), Nat.sub_sub_self hlt.le, Nat.or_comm]

/-! ### The bits of a rotated word -/

theorem testBit_shlW (w x s n : Nat) :
    (shlW w x s).testBit n = (decide (n < w) && (decide (s ≤ n) && x.testBit (n - s))) := by
  rw [shlW, Nat.testBit_mod_two_pow, Nat.testBit_mul_two_pow]

theorem testBit_shrW (x s n : Nat) : (shrW x s).testBit n = x.testBit (n + s) := by
  rw [shrW, Nat.testBit_div_two_pow]

theorem testBit_eq_false_of_fits {n : Nat} (hx : x < 2 ^ w) (hn : w ≤ n) : x.testBit n = false :=
  Nat.testBit_lt_two_pow (hx.trans_le (Nat.pow_le_pow_right Nat.zero_lt_two hn))

/-- R107: rotating left moves bit n up by y, around the end of the word. -/
theorem testBit_rolW {n : Nat} (hx : x < 2 ^ w) (y : Nat) (hn : n < w) :
    (rolW w x y).testBit ((n + y) % w) = x.testBit n := by
  have hs : rotAmount w y < w := Nat.mod_lt _ (by omega)
  have hat : (n + y) % w = (n + rotAmount w y) % w := (Nat.add_mod_mod n y w).symm
  rw [hat]
  generalize hsy : rotAmount w y = s at hs
  by_cases h0 : s = 0
  · rw [rolW_of_rotAmount_zero x (hsy.trans h0), h0, Nat.add_zero, Nat.mod_eq_of_lt hn]
  rw [rolW, hsy, if_neg h0, Nat.testBit_or, testBit_shlW, testBit_shrW]
  by_cases hturn : n + s < w
  · have hhigh : x.testBit (n + s + (w - s)) = false := testBit_eq_false_of_fits hx (by omega)
    simp [Nat.mod_eq_of_lt hturn, hturn, hhigh]
  · have hwrap : (n + s) % w = n + s - w := by
      rw [Nat.mod_eq_sub_mod (by omega), Nat.mod_eq_of_lt (by omega)]
    have hlow : ¬ s ≤ n + s - w := by omega
    have hplace : n + s - w + (w - s) = n := by omega
    simp [hwrap, hlow, hplace]

/-- R108: rotating right moves the bit y places up, around the end of the word, down to n. -/
theorem testBit_rorW {n : Nat} (hx : x < 2 ^ w) (y : Nat) (hn : n < w) :
    (rorW w x y).testBit n = x.testBit ((n + y) % w) := by
  have hw : 0 < w := by omega
  have hback : ((n + y) % w + (w - rotAmount w y)) % w = n := by
    rw [Nat.mod_add_mod, Nat.add_right_comm, add_rest_add_mod hw, Nat.mod_eq_of_lt hn]
  have hrol := testBit_rolW hx (w - rotAmount w y) (Nat.mod_lt (n + y) hw)
  rwa [hback, ← rorW_eq_rolW hw] at hrol

/-- Two words that agree on every bit below w, counted from any bit k around the word, are equal. -/
theorem eq_of_testBit_rotated (hx : x < 2 ^ w) (hx' : x' < 2 ^ w) (k : Nat)
    (h : ∀ n < w, x.testBit ((n + k) % w) = x'.testBit ((n + k) % w)) : x = x' := by
  refine Nat.eq_of_testBit_eq fun m => ?_
  by_cases hm : m < w
  · have hw : 0 < w := by omega
    have hat : ((m + (w - rotAmount w k)) % w + k) % w = m := by
      rw [Nat.mod_add_mod, add_rest_add_mod hw, Nat.mod_eq_of_lt hm]
    have hbit := h _ (Nat.mod_lt (m + (w - rotAmount w k)) hw)
    rwa [hat] at hbit
  · rw [testBit_eq_false_of_fits hx (by omega), testBit_eq_false_of_fits hx' (by omega)]

/-! ### The laws of R110 -/

theorem rorW_rolW (hx : x < 2 ^ w) (y : Nat) : rorW w (rolW w x y) y = x := by
  refine eq_of_testBit_rotated (rorW_fits y (rolW_fits y hx)) hx 0 fun n hn => ?_
  rw [Nat.add_zero, Nat.mod_eq_of_lt hn, testBit_rorW (rolW_fits y hx) y hn, testBit_rolW hx y hn]

theorem rolW_rorW (hx : x < 2 ^ w) (y : Nat) : rolW w (rorW w x y) y = x := by
  refine eq_of_testBit_rotated (rolW_fits y (rorW_fits y hx)) hx y fun n hn => ?_
  rw [testBit_rolW (rorW_fits y hx) y hn, testBit_rorW hx y hn]

/-- Bit n of x is moved up by y and then by z, that is by y + z. -/
theorem rolW_rolW (hx : x < 2 ^ w) (y z : Nat) : rolW w (rolW w x y) z = rolW w x (y + z) := by
  refine eq_of_testBit_rotated (rolW_fits z (rolW_fits y hx)) (rolW_fits _ hx) (y + z) fun n hn => ?_
  calc (rolW w (rolW w x y) z).testBit ((n + (y + z)) % w)
      = (rolW w (rolW w x y) z).testBit (((n + y) % w + z) % w) := by
        rw [Nat.mod_add_mod, Nat.add_assoc]
    _ = (rolW w x y).testBit ((n + y) % w) :=
        testBit_rolW (rolW_fits y hx) z (Nat.mod_lt _ (by omega))
    _ = x.testBit n := testBit_rolW hx y hn
    _ = (rolW w x (y + z)).testBit ((n + (y + z)) % w) := (testBit_rolW hx (y + z) hn).symm

theorem subW_addW (hx : x < 2 ^ w) (hy : y < 2 ^ w) : subW w (addW w x y) y = x := by
  rw [subW_eq_bitvec (addW_fits ..) hy, addW_eq_bitvec, BitVec.ofNat_toNat, BitVec.setWidth_eq,
    BitVec.add_sub_cancel, BitVec.toNat_ofNat, Nat.mod_eq_of_lt hx]

theorem addW_subW (hx : x < 2 ^ w) (hy : y < 2 ^ w) : addW w (subW w x y) y = x := by
  rw [addW_eq_bitvec, subW_eq_bitvec hx hy, BitVec.ofNat_toNat, BitVec.setWidth_eq,
    BitVec.sub_add_cancel, BitVec.toNat_ofNat, Nat.mod_eq_of_lt hx]

theorem xorW_xorW (x y : Nat) : xorW (xorW x y) y = x := by
  rw [xorW, xorW, Nat.xor_xor_cancel_right]

/-- Settles O36, law by law; the rotations' laws are read off the bits. -/
theorem wordDatapathLaws : Obligations.WordDatapathLaws := by
  intro w x y z _ hx hy _
  have hmod : rolW w x (y + z) = rolW w x (y % w + z % w) := rolW_congr x (Nat.add_mod y z w)
  exact ⟨rorW_rolW hx y, rolW_rorW hx y, rolW_congr x (Nat.mod_mod y w).symm,
    (rolW_rolW hx y z).trans hmod, subW_addW hx hy, addW_subW hx hy, xorW_xorW x y⟩

/-- Settles O37: a bit's place is the same for y as for y mod w. -/
theorem rotationsMoveBits : Obligations.RotationsMoveBits := by
  intro w x y _ hx _
  refine ⟨fun n hn => ?_, fun n hn => ?_, rolW_fits y hx, rorW_fits y hx, fun h => ?_⟩
  · rw [Nat.add_mod_mod, testBit_rolW hx y hn]
  · rw [Nat.add_mod_mod, testBit_rorW hx y hn]
  · exact ⟨rolW_of_rotAmount_zero x h, rorW_of_rotAmount_zero x h⟩

/-- Settles O38: w divides 2^w for the four widths. -/
theorem wrappedSumRotatesAlike : Obligations.WrappedSumRotatesAlike := by
  intro w x y z hw
  have hamount := rotAmount_addW (width_dvd_two_pow hw) y z
  exact ⟨hamount, rolW_congr x hamount, rorW_congr x hamount⟩

end Sys2Proof.Machine
end

section
/-! PROOFS. The single steps of KEYX (41_key_schedule.md) and of DRAIN: in each phase the step
of its values, with the response or the dispatch that the last of them brings. -/

namespace Sys2Proof.Machine

variable {s : State}

/-! ### The phases whose step is the same for every command -/

/-- After IDLE and PAY the phase alone names the step (R38). -/
theorem exec_eq_coreStep (i : Instr) (hidle : s.PHASE ≠ .idle) (hpay : s.PHASE ≠ .pay) :
    exec i s = coreStep s := by
  rcases coreStep_cases s with ⟨hp, -⟩ | ⟨hp, -⟩ | ⟨-, -, h⟩
  · exact absurd hp hidle
  · exact absurd hp hpay
  · exact (h i).symm

theorem exec_drain (i : Instr) (hp : s.PHASE = .drain) : exec i s = recvByte drainByte s := by
  rw [exec_eq_coreStep i (by simp [hp]) (by simp [hp])]
  simp [coreStep, byPhase, hp]

theorem exec_kxInit (i : Instr) (hp : s.PHASE = .kxInit) : exec i s = kxInitStep s :=
  (exec_eq_coreStep i (by simp [hp]) (by simp [hp])).trans (coreStep_kxInit hp)

theorem exec_kxMix (i : Instr) (hp : s.PHASE = .kxMix) : exec i s = kxMixStep s :=
  (exec_eq_coreStep i (by simp [hp]) (by simp [hp])).trans (coreStep_kxMix hp)

theorem exec_resp (i : Instr) (hp : s.PHASE = .resp) : exec i s = respStep s :=
  (exec_eq_coreStep i (by simp [hp]) (by simp [hp])).trans (coreStep_resp hp)

/-! ### Header decode and key bytes -/

/-- The header decode of a KEYX with LEN != b (R121). -/
theorem keyxHeader_of_ne {len : Nat} (hne : len ≠ s.cfg.b) :
    keyxHeader len s = .next (lengthError stInvalidKeyLength len { s with RXCNT := some 0 }) :=
  if_pos hne

/-- The header decode of a KEYX with LEN = b: L is cleared (R124, R202). -/
theorem keyxHeader_of_eq (s : State) : keyxHeader s.cfg.b s = .next
    (if s.cfg.b = 0 then startInit { s with RXCNT := some 0, L := List.replicate s.cfg.c (some 0) }
    else { s with RXCNT := some 0, L := List.replicate s.cfg.c (some 0), PHASE := .pay }) := by
  by_cases hzero : s.cfg.b = 0 <;> simp [keyxHeader, hzero]

/-- Settles O15, by the two cases of the error response. -/
theorem keyxOfWrongLength : Obligations.KeyxOfWrongLength := by
  intro len s hp hne
  rw [exec_keyx, byPhase_idle hp, keyxHeader_of_ne hne]
  rcases lengthError_cases stInvalidKeyLength len { s with RXCNT := some 0 } with
    ⟨hzero, e⟩ | ⟨hpos, e⟩ <;> rw [e]
  · exact ⟨fun hpos => absurd hzero hpos, fun _ => rfl⟩
  · exact ⟨fun _ => rfl, fun hzero => absurd hzero hpos⟩

/-- Settles O16, by whether there is a key byte to come. -/
theorem keyxOfValidLength : Obligations.KeyxOfValidLength := by
  intro s hp
  rw [exec_keyx, byPhase_idle hp, keyxHeader_of_eq]
  exact ⟨fun hpos => by rw [if_neg hpos], fun hzero => by rw [if_pos hzero]; rfl⟩

/-- A key byte placed in a word that holds a value (R124). -/
theorem placeKeyByte_of_entry {u n : Nat} {L : List (Option Word)} {x : Word} (v : Byte)
    (hx : entry L (n / u) = some x) :
    placeKeyByte u L n v = some (L.set (n / u) (some (setByteLane x (n % u) v))) := by
  simp [placeKeyByte, hx]

/-- Settles O17: the offered byte is placed, and the last one starts Init. -/
theorem keyxByteGoesToItsLane : Obligations.KeyxByteGoesToItsLane := by
  intro len n s v rest x hp hn hx ⟨hoffers, hcmd⟩
  have hbyte := keyxByte_of_values (s := s.received rest) (len := len) hn
    (placeKeyByte_of_entry v hx)
  rw [exec_keyx, byPhase_pay hp, recvByte_offered hoffers hcmd, hbyte]
  exact ⟨fun hmore => by rw [if_neg hmore], fun hlast => by rw [if_pos hlast]; rfl⟩

/-! ### Init and the mix -/

/-- Settles O18: the step is one iteration of Init, and the last one sets up the mix. -/
theorem keyxInitStep : Obligations.KeyxInitStep := by
  intro len n s x q hp hi hx hq
  rw [exec_kxInit _ hp, kxInitStep_of_values hi (initIteration_eq hx hq)]
  exact ⟨fun hmore => by rw [if_neg hmore]; rfl, fun hlast => by rw [if_pos hlast]; rfl⟩

/-- One iteration of the mix on entries that hold values: the L update reads the new A (R127). -/
theorem mixIteration_of_entries {cfg : Config} {m : MixVars} {x y : Word}
    (hx : entry m.S m.i = some x) (hy : entry m.L m.j = some y) :
    let a := rolW cfg.w ((x + m.A + m.B) % 2 ^ cfg.w) 3
    let b := rolW cfg.w ((y + a + m.B) % 2 ^ cfg.w) ((a + m.B) % 2 ^ cfg.w)
    mixIteration cfg m = some
      { S := m.S.set m.i (some a), L := m.L.set m.j (some b), A := a, B := b
        i := (m.i + 1) % cfg.t, j := (m.j + 1) % cfg.c } := by
  simp only [mixIteration, hx, hy, Option.bind_eq_bind, Option.bind_some, Option.pure_def,
    addW_addW]
  rfl

/-- Settles O19: the step is one iteration of the mix, and the last one commits. -/
theorem keyxMixStep : Obligations.KeyxMixStep := by
  intro len m n q s x y a b hp hi hj hk hA hB hx hy
  have hm := mixIteration_of_entries (cfg := s.cfg) (x := x) (y := y)
    (m := { S := s.S, L := s.L, A := a, B := b, i := m, j := n }) hx hy
  rw [exec_kxMix _ hp, kxMixStep_of_values hA hB hi hj hk hm]
  exact ⟨fun hmore => congrArg _ (if_neg hmore), fun hlast => congrArg _ (if_pos hlast)⟩

/-! ### DRAIN -/

/-- Settles O39: the offered byte is counted, and the last one is answered. -/
theorem drainDiscardsAndAnswers : Obligations.DrainDiscardsAndAnswers := by
  intro i n s cw v st rest hp hn hcw hst ⟨hoffers, hcmd⟩
  have hbyte := drainByte_of_values (s := s.received rest) v hn hcw hst
  rw [exec_drain i hp, recvByte_offered hoffers hcmd, hbyte]
  exact ⟨fun hmore => by rw [if_neg hmore], fun hlast => by rw [if_pos hlast]⟩

end Sys2Proof.Machine
end

section
/-! PROOFS. The key schedule as a function of the key: Pack's byte lanes (R123), the arrival
placement (R124), the indices of the mix (R134), and a whole KEYX frame (R209). -/

namespace Sys2Proof.Machine

variable {cfg : Config} {m m' : MixVars}

/-! ### The byte lanes of L -/

/-- c is ceil(b / u), and 1 for a key of no bytes (R6). -/
theorem c_eq_max (hlegal : cfg.legal = true) : cfg.c = max 1 ((cfg.b + cfg.u - 1) / cfg.u) := by
  rcases legal_u hlegal with hu | hu | hu | hu <;> rw [Config.c, hu] <;> omega

/-- The little-endian word of the u bytes of K from byte a on, as the sum over its lanes; the bytes
K does not have count as zero (R123). -/
theorem leDecode_take_drop (K : List Byte) (a u : Nat) :
    leDecode ((K.drop a).take u) = (((List.range u).filter fun q => a + q < K.length).map
      fun q => (K.getD (a + q) 0).toNat * 2 ^ (8 * q)).sum := by
  induction u with
  | zero => simp [leDecode]
  | succ u ih =>
    rw [List.range_succ, List.filter_append, List.map_append, List.sum_append, ← ih]
    by_cases hmore : a + u < K.length
    · have hlane : u < (K.drop a).length := by
        rw [List.length_drop]
        omega
      have hlen : ((K.drop a).take u).length = u := List.length_take_of_le hlane.le
      rw [List.take_succ_eq_append_getElem hlane, leDecode_concat, hlen]
      simp [hmore]
    · rw [List.take_of_length_le (by simp; omega), List.take_of_length_le (by simp; omega)]
      simp [hmore]

/-- Settles O20: Pack gives the words `keyWord`, each the sum over its lanes. -/
theorem packIsTheByteLaneLayout : Obligations.PackIsTheByteLaneLayout := by
  intro cfg K hlegal hlen
  refine ⟨c_eq_max hlegal, packedFrom cfg K 0, pack_eq hlegal hlen, packedFrom_length .., ?_⟩
  intro m hm
  rw [entry_packedFrom hm, keyWord, Nat.zero_max, List.drop_take, Nat.add_one_mul m,
    Nat.add_sub_cancel_left, leDecode_take_drop, hlen]

/-- Settles O21: both fill L as `packedFrom` says. -/
theorem arrivalPlacementGivesPack : Obligations.ArrivalPlacementGivesPack := by
  intro cfg K hlegal hlen
  exact ⟨packedFrom cfg K 0, placeKey_eq hlegal hlen.le, pack_eq hlegal hlen⟩

/-! ### The indices of the mix -/

/-- An iteration of the mix writes the new A to S[i] and the new B to L[j], and both indices advance
(R127). -/
theorem mixIteration_writes (h : mixIteration cfg m = some m') :
    m'.S = m.S.set m.i (some m'.A) ∧ m'.L = m.L.set m.j (some m'.B) ∧
      m'.i = (m.i + 1) % cfg.t ∧ m'.j = (m.j + 1) % cfg.c := by
  simp only [mixIteration, Option.bind_eq_bind, Option.bind_eq_some_iff] at h
  obtain ⟨x, -, y, -, h⟩ := h
  obtain rfl := Option.some.inj h
  exact ⟨rfl, rfl, rfl, rfl⟩

/-- After k iterations the indices are k mod t and k mod c (R134). -/
theorem mixLoop_indices {S L : List (Option Word)} {k : Nat}
    (h : mixLoop cfg k (mixStart S L) = some m) : m.i = k % cfg.t ∧ m.j = k % cfg.c := by
  induction k generalizing m with
  | zero =>
    obtain rfl := Option.some.inj h
    exact ⟨(Nat.zero_mod _).symm, (Nat.zero_mod _).symm⟩
  | succ k ih =>
    obtain ⟨m₁, h₁, h⟩ := Option.bind_eq_some_iff.1 h
    obtain ⟨hi₁, hj₁⟩ := ih h₁
    obtain ⟨-, -, hi, hj⟩ := mixIteration_writes h
    rw [hi, hj, hi₁, hj₁, Nat.mod_add_mod, Nat.mod_add_mod]
    exact ⟨rfl, rfl⟩

/-- Settles O23: an iteration writes at its indices, which `mixLoop_indices` gives. -/
theorem mixIndexSequence : Obligations.MixIndexSequence := by
  intro cfg S L k m m' hm hm'
  obtain ⟨hi, hj⟩ := mixLoop_indices hm
  obtain ⟨hS, hL, -, -⟩ := mixIteration_writes hm'
  exact ⟨hi ▸ hS, hj ▸ hL⟩

/-! ### A whole frame -/

/-- Settles O54: the run of `runs_keyx` ends in `keyxDone`, a boundary with Expand(K) in S. -/
theorem keyxFrameExpandsTheKey : Obligations.KeyxFrameExpandsTheKey := by
  intro s K rest hlen hb
  obtain ⟨S, hS, hrun⟩ := runs_keyx hlen hb
  obtain ⟨-, hf, hr, -⟩ := hb
  have hempty : (s.keyxDone S rest).workingEmpty :=
    ⟨noneValued_replicate _, rfl, rfl, rfl, rfl, rfl, rfl⟩
  exact ⟨s.keyxDone S rest, hrun, ⟨rfl, rfl, hf, hr, rfl, rfl, hempty⟩, rfl, hS⟩

end Sys2Proof.Machine
end

section
/-! PROOFS. The frame of KEYX (41_key_schedule.md), phase by phase: the host's side and the marks,
the one entry of S that a step writes, and the fields it may change. -/

namespace Sys2Proof.Machine

variable {s t : State} {len n : Nat}

/-! ### What each step can answer, as to the frame -/

/-- Receiving waits, or does what f does to the next byte, which is gone from the stream. -/
theorem recvByte_eq_next_tail {f : Byte → State → Outcome} (h : recvByte f s = .next t) :
    t = s ∨ ∃ v, f v (s.received s.host.cmd.tail) = .next t := by
  rcases recvByte_cases f s with ⟨hwait, -⟩ | ⟨v, rest, hcmd, -, hbyte⟩
  · exact .inl (Host.Outcome.next.inj (h.symm.trans hwait))
  · refine .inr ⟨v, ?_⟩
    rw [hcmd, List.tail_cons]
    exact hbyte.symm.trans h

/-- The header decode of a KEYX: with a wrong length it answers or drains, with the right one it
waits for the key or starts Init (R121, R202). -/
theorem keyxHeader_outcomes (h : keyxHeader len s = .next t) :
    (len ≠ s.cfg.b ∧ (t = respond stInvalidKeyLength [] { s with RXCNT := some 0 } ∨
        t = { s with RXCNT := some 0, ST := some stInvalidKeyLength, PHASE := .drain })) ∨
      (len = s.cfg.b ∧
        (t = { s with RXCNT := some 0, L := List.replicate s.cfg.c (some 0), PHASE := .pay } ∨
          t = startInit { s with RXCNT := some 0, L := List.replicate s.cfg.c (some 0) })) := by
  rcases keyxHeader_cases h with ⟨hne, rfl⟩ | ⟨he, -, rfl⟩ | ⟨he, -, rfl⟩
  · rcases lengthError_cases stInvalidKeyLength len { s with RXCNT := some 0 } with
      ⟨-, e⟩ | ⟨-, e⟩
    · exact .inl ⟨hne, .inl e⟩
    · exact .inl ⟨hne, .inr e⟩
  · exact .inr ⟨he, .inl rfl⟩
  · exact .inr ⟨he, .inr rfl⟩

/-! ### The host and the marks -/

/-- The step from s to t leaves the host as it is, and raises F_NOVALUE at most. -/
def HostKept (s t : State) : Prop :=
  t.host = s.host ∧ (t.FAULT = s.FAULT ∨ t.FAULT = some .noValue)

theorem keyxHeader_hostKept (h : keyxHeader len s = .next t) : HostKept s t := by
  rcases keyxHeader_outcomes h with ⟨-, rfl | rfl⟩ | ⟨-, rfl | rfl⟩ <;> exact ⟨rfl, .inl rfl⟩

theorem keyxByte_hostKept {v : Byte} (h : keyxByte len v s = .next t) : HostKept s t := by
  rcases keyxByte_cases h with ⟨_, _, -, -, ⟨-, rfl⟩ | ⟨-, rfl⟩⟩ | rfl
  exacts [⟨rfl, .inl rfl⟩, ⟨rfl, .inl rfl⟩, ⟨rfl, .inr rfl⟩]

theorem drainByte_hostKept {v : Byte} (h : drainByte v s = .next t) : HostKept s t := by
  rcases drainByte_cases h with ⟨_, _, -, -, ⟨-, rfl⟩ | ⟨-, _, -, rfl⟩⟩ | rfl
  exacts [⟨rfl, .inl rfl⟩, ⟨rfl, .inl rfl⟩, ⟨rfl, .inr rfl⟩]

theorem kxInitStep_hostKept (h : kxInitStep s = .next t) : HostKept s t := by
  rcases kxInitStep_cases h with ⟨_, _, -, -, ⟨-, rfl⟩ | ⟨-, rfl⟩⟩ | rfl
  exacts [⟨rfl, .inl rfl⟩, ⟨rfl, .inl rfl⟩, ⟨rfl, .inr rfl⟩]

theorem kxMixStep_hostKept (h : kxMixStep s = .next t) : HostKept s t := by
  rcases kxMixStep_cases h with ⟨_, _, _, _, _, _, -, -, -, -, -, -, ⟨-, rfl⟩ | ⟨-, rfl⟩⟩ | rfl
  exacts [⟨rfl, .inl rfl⟩, ⟨rfl, .inl rfl⟩, ⟨rfl, .inr rfl⟩]

theorem enRunStep_hostKept (h : enRunStep s = .next t) : HostKept s t := by
  rcases enRunStep_cases h with ⟨_, _, _, _, -, -, -, -, ⟨-, rfl⟩ | ⟨-, rfl⟩⟩ | rfl
  exacts [⟨rfl, .inl rfl⟩, ⟨rfl, .inl rfl⟩, ⟨rfl, .inr rfl⟩]

theorem deRunStep_hostKept (h : deRunStep s = .next t) : HostKept s t := by
  rcases deRunStep_cases h with ⟨_, _, _, _, -, -, -, -, ⟨-, rfl⟩ | ⟨-, _, -, rfl⟩⟩ | rfl
  exacts [⟨rfl, .inl rfl⟩, ⟨rfl, .inl rfl⟩, ⟨rfl, .inr rfl⟩]

/-- The step from s to t takes at most one command byte, in PAY or DRAIN, and sends at most one
response byte, in RESP; it raises F_NOVALUE at most. -/
structure StreamFrame (s t : State) : Prop where
  cmd : t.host.cmd = s.host.cmd ∨
    (s.PHASE = .pay ∨ s.PHASE = .drain) ∧ t.host.cmd = s.host.cmd.tail
  got : t.host.got = s.host.got ∨ s.PHASE = .resp ∧ ∃ v, t.host.got = s.host.got ++ [v]
  FAULT : t.FAULT = s.FAULT ∨ t.FAULT = some .noValue

theorem StreamFrame.refl (s : State) : StreamFrame s s := ⟨.inl rfl, .inl rfl, .inl rfl⟩

theorem HostKept.streamFrame (h : HostKept s t) : StreamFrame s t := by
  obtain ⟨hhost, hfault⟩ := h
  exact ⟨.inl (by rw [hhost]), .inl (by rw [hhost]), hfault⟩

/-- A step that may take a command byte, in PAY or DRAIN. -/
theorem recvByte_streamFrame {f : Byte → State → Outcome} (hp : s.PHASE = .pay ∨ s.PHASE = .drain)
    (hf : ∀ {v u t}, f v u = .next t → HostKept u t) (h : recvByte f s = .next t) :
    StreamFrame s t := by
  rcases recvByte_eq_next_tail h with rfl | ⟨v, h⟩
  · exact .refl t
  · obtain ⟨hhost, hfault⟩ := hf h
    exact ⟨.inr ⟨hp, by rw [hhost]⟩, .inl (by rw [hhost]), hfault⟩

theorem respStep_streamFrame (hp : s.PHASE = .resp) (h : respStep s = .next t) :
    StreamFrame s t := by
  rcases respStep_cases h with ⟨-, rfl⟩ | ⟨_, v, _, -, -, -, -, rfl⟩ | rfl
  · exact .refl t
  · exact ⟨.inl rfl, .inr ⟨hp, v, rfl⟩, .inl rfl⟩
  · exact ⟨.inl rfl, .inl rfl, .inr rfl⟩

/-- The streams and the marks, for a KEYX in any phase. -/
theorem keyx_streamFrame (h : exec (.keyx len) s = .next t) : StreamFrame s t := by
  rw [exec_keyx] at h
  rcases byPhase_cases h with ⟨-, h⟩ | ⟨hp, h⟩ | ⟨hp, h⟩ | ⟨-, h⟩ | ⟨-, h⟩ | ⟨-, h⟩ | ⟨-, h⟩ |
    ⟨hp, h⟩
  · exact (keyxHeader_hostKept h).streamFrame
  · exact recvByte_streamFrame (.inl hp) keyxByte_hostKept h
  · exact recvByte_streamFrame (.inr hp) drainByte_hostKept h
  · exact (kxInitStep_hostKept h).streamFrame
  · exact (kxMixStep_hostKept h).streamFrame
  · exact (enRunStep_hostKept h).streamFrame
  · exact (deRunStep_hostKept h).streamFrame
  · exact respStep_streamFrame hp h

/-! ### The entries of S -/

/-- An entry that a write changed is the entry written. -/
theorem eq_of_entry_set_ne {α : Type} {xs : List (Option α)} {m n : Nat} {o : Option α}
    (h : entry (xs.set n o) m ≠ entry xs m) : m = n := by
  by_contra hmn
  exact h (entry_set_other o (Ne.symm hmn))

theorem keyxHeader_entry (h : keyxHeader len s = .next t) (hne : entry t.S n ≠ entry s.S n) :
    n = 0 := by
  rcases keyxHeader_outcomes h with ⟨-, rfl | rfl⟩ | ⟨-, rfl | rfl⟩
  · exact absurd rfl hne
  · exact absurd rfl hne
  · exact absurd rfl hne
  · exact eq_of_entry_set_ne hne

theorem keyxByte_entry {v : Byte} (h : keyxByte len v s = .next t)
    (hne : entry t.S n ≠ entry s.S n) : n = 0 := by
  rcases keyxByte_cases h with ⟨_, _, -, -, ⟨-, rfl⟩ | ⟨-, rfl⟩⟩ | rfl
  · exact absurd rfl hne
  · exact eq_of_entry_set_ne hne
  · exact absurd rfl hne

/-- An iteration of Init writes S[n] alone (R125). -/
theorem initIteration_writes {cfg : Config} {S S' : List (Option Word)}
    (h : initIteration cfg n S = some S') : ∃ x, S' = S.set n (some x) := by
  simp only [initIteration, Option.bind_eq_bind, Option.bind_eq_some_iff] at h
  obtain ⟨x, -, q, -, h⟩ := h
  exact ⟨_, (Option.some.inj h).symm⟩

theorem kxInitStep_entry (h : kxInitStep s = .next t) (hne : entry t.S n ≠ entry s.S n) :
    s.i = some n := by
  rcases kxInitStep_cases h with ⟨m, S, hi, hS, ht⟩ | rfl
  · obtain ⟨x, rfl⟩ := initIteration_writes hS
    obtain rfl : n = m := by
      rcases ht with ⟨-, rfl⟩ | ⟨-, rfl⟩ <;> exact eq_of_entry_set_ne hne
    exact hi
  · exact absurd rfl hne

theorem kxMixStep_entry (h : kxMixStep s = .next t) (hne : entry t.S n ≠ entry s.S n) :
    s.i = some n := by
  rcases kxMixStep_cases h with ⟨_, _, i, _, _, m, -, -, hi, -, -, hm, ht⟩ | rfl
  · obtain ⟨hS, -⟩ := mixIteration_writes hm
    have htS : t.S = s.S.set i (some m.A) := by
      rcases ht with ⟨-, rfl⟩ | ⟨-, rfl⟩ <;> exact hS
    obtain rfl : n = i := eq_of_entry_set_ne (htS ▸ hne)
    exact hi
  · exact absurd rfl hne

/-- The entry of S that a KEYX changes: S[0] at the start of Init, S[i] in the later phases. -/
theorem keyx_entry (h : exec (.keyx len) s = .next t) (hne : entry t.S n ≠ entry s.S n) :
    (s.PHASE = .idle ∨ s.PHASE = .pay) ∧ n = 0 ∨
      (s.PHASE ≠ .idle ∧ s.PHASE ≠ .pay) ∧ s.i = some n := by
  rw [exec_keyx] at h
  rcases byPhase_cases h with ⟨hp, h⟩ | ⟨hp, h⟩ | ⟨hp, h⟩ | ⟨hp, h⟩ | ⟨hp, h⟩ | ⟨hp, h⟩ | ⟨hp, h⟩ |
    ⟨hp, h⟩
  · exact .inl ⟨.inl hp, keyxHeader_entry h hne⟩
  · rcases recvByte_eq_next_tail h with rfl | ⟨v, h⟩
    · exact absurd rfl hne
    · exact .inl ⟨.inr hp, keyxByte_entry h hne⟩
  · exact absurd (congrArg (entry · n) (recvByte_drainByte_outsideKeyx hp h).S) hne
  · exact .inr ⟨by simp [hp], kxInitStep_entry h hne⟩
  · exact .inr ⟨by simp [hp], kxMixStep_entry h hne⟩
  · exact absurd (congrArg (entry · n) (enRunStep_outsideKeyx hp h).S) hne
  · exact absurd (congrArg (entry · n) (deRunStep_outsideKeyx hp h).S) hne
  · exact absurd (congrArg (entry · n) (respStep_outsideKeyx hp h).S) hne

/-! ### The fields a step may change -/

theorem keyxHeader_frame (h : keyxHeader len s = .next t) (ht : t.PHASE ≠ .resp) : t =
    { s with
      RXCNT := t.RXCNT, ST := t.ST, L := t.L, KEYED := t.KEYED, S := t.S, i := t.i
      PHASE := t.PHASE } := by
  rcases keyxHeader_outcomes h with ⟨-, rfl | rfl⟩ | ⟨-, rfl | rfl⟩
  · exact absurd rfl ht
  · rfl
  · rfl
  · rfl

theorem recvByte_keyxByte_frame (h : recvByte (keyxByte len) s = .next t) : t =
    { s with
      L := t.L, RXCNT := t.RXCNT, KEYED := t.KEYED, S := t.S, i := t.i, PHASE := t.PHASE
      FAULT := t.FAULT, host := { s.host with cmd := t.host.cmd } } := by
  rcases recvByte_eq_next_tail h with rfl | ⟨v, h⟩
  · rfl
  · rcases keyxByte_cases h with ⟨_, _, -, -, ⟨-, rfl⟩ | ⟨-, rfl⟩⟩ | rfl <;> rfl

theorem recvByte_drainByte_frame (h : recvByte drainByte s = .next t) (ht : t.PHASE ≠ .resp) : t =
    { s with
      RXCNT := t.RXCNT, FAULT := t.FAULT, host := { s.host with cmd := t.host.cmd } } := by
  rcases recvByte_eq_next_tail h with rfl | ⟨v, h⟩
  · rfl
  · rcases drainByte_cases h with ⟨_, _, -, -, ⟨-, rfl⟩ | ⟨-, _, -, rfl⟩⟩ | rfl
    · rfl
    · exact absurd rfl ht
    · rfl

theorem kxInitStep_frame (h : kxInitStep s = .next t) : t =
    { s with
      S := t.S, i := t.i, A := t.A, B := t.B, j := t.j, k := t.k, PHASE := t.PHASE
      FAULT := t.FAULT } := by
  rcases kxInitStep_cases h with ⟨_, _, -, -, ⟨-, rfl⟩ | ⟨-, rfl⟩⟩ | rfl <;> rfl

theorem kxMixStep_frame (h : kxMixStep s = .next t) (ht : t.PHASE ≠ .resp) : t =
    { s with
      S := t.S, L := t.L, A := t.A, B := t.B, i := t.i, j := t.j, k := t.k, FAULT := t.FAULT } := by
  rcases kxMixStep_cases h with ⟨_, _, _, _, _, _, -, -, -, -, -, -, ⟨-, rfl⟩ | ⟨-, rfl⟩⟩ | rfl
  · rfl
  · exact absurd rfl ht
  · rfl

theorem respStep_frame (h : respStep s = .next t) : t =
    { s with
      TXCNT := t.TXCNT, PHASE := t.PHASE, FAULT := t.FAULT
      host := { s.host with got := t.host.got } } := by
  rcases respStep_cases h with ⟨-, rfl⟩ | ⟨_, _, _, -, -, -, -, rfl⟩ | rfl <;> rfl

/-- What the step that answers a KEYX may change: DATA is not among it, since no answer of a KEYX
carries data. -/
def ResponseFrame (s t : State) : Prop := t =
  { s with
    RXCNT := t.RXCNT, S := t.S, KEYED := t.KEYED, ST := t.ST, RLEN := t.RLEN, TXCNT := t.TXCNT
    PHASE := t.PHASE, L := t.L, A := t.A, B := t.B, i := t.i, j := t.j, k := t.k, rnd := t.rnd
    host := { s.host with cmd := t.host.cmd } }

theorem keyxHeader_responseFrame (h : keyxHeader len s = .next t) (ht : t.PHASE = .resp) :
    ResponseFrame s t := by
  rcases keyxHeader_outcomes h with ⟨-, rfl | rfl⟩ | ⟨-, rfl | rfl⟩
  · rfl
  all_goals cases ht

theorem recvByte_drainByte_responseFrame (hp : s.PHASE ≠ .resp) (h : recvByte drainByte s = .next t)
    (ht : t.PHASE = .resp) : ResponseFrame s t := by
  rcases recvByte_eq_next_tail h with rfl | ⟨v, h⟩
  · exact absurd ht hp
  · rcases drainByte_cases h with ⟨_, _, -, -, ⟨-, rfl⟩ | ⟨-, _, -, rfl⟩⟩ | rfl
    · exact absurd ht hp
    · rfl
    · exact absurd ht hp

theorem kxMixStep_responseFrame (hp : s.PHASE ≠ .resp) (h : kxMixStep s = .next t)
    (ht : t.PHASE = .resp) : ResponseFrame s t := by
  rcases kxMixStep_cases h with ⟨_, _, _, _, _, _, -, -, -, -, -, -, ⟨-, rfl⟩ | ⟨-, rfl⟩⟩ | rfl
  · exact absurd ht hp
  · rfl
  · exact absurd ht hp

/-- The step that answers a KEYX, from the three phases it can come from. -/
theorem keyx_responseFrame (h : exec (.keyx len) s = .next t)
    (hp : s.PHASE = .idle ∨ s.PHASE = .drain ∨ s.PHASE = .kxMix) (ht : t.PHASE = .resp) :
    ResponseFrame s t := by
  rcases hp with hp | hp | hp
  · rw [exec_keyx, byPhase_idle hp] at h
    exact keyxHeader_responseFrame h ht
  · rw [exec_drain _ hp] at h
    exact recvByte_drainByte_responseFrame (by simp [hp]) h ht
  · rw [exec_kxMix _ hp] at h
    exact kxMixStep_responseFrame (by simp [hp]) h ht

/-- A wrong length leaves S and KEYED (R121). -/
theorem keyxHeader_schedule_of_ne (hne : len ≠ s.cfg.b) (h : keyxHeader len s = .next t) :
    t.S = s.S ∧ t.KEYED = s.KEYED := by
  rcases keyxHeader_outcomes h with ⟨-, rfl | rfl⟩ | ⟨he, -⟩
  · exact ⟨rfl, rfl⟩
  · exact ⟨rfl, rfl⟩
  · exact absurd he hne

/-- Settles O48, clause by clause: the frame of each phase's step, and what all phases share. -/
theorem keyxFrame : Obligations.KeyxFrame := by
  intro len s t h
  obtain ⟨hcmd, hgot, hfault⟩ := keyx_streamFrame h
  have hidle : s.PHASE = .idle → keyxHeader len s = .next t := fun hp => by
    rwa [exec_keyx, byPhase_idle hp] at h
  have hdrain : s.PHASE = .drain → recvByte drainByte s = .next t := fun hp => by
    rwa [exec_drain _ hp] at h
  refine ⟨fun hp => keyxHeader_frame (hidle hp), fun hp => ?pay,
    fun hp => recvByte_drainByte_frame (hdrain hp), fun hp => ?kxInit, fun hp => ?kxMix,
    keyx_responseFrame h, fun hp => ?resp, fun n => keyx_entry h,
    fun hp hne => keyxHeader_schedule_of_ne hne (hidle hp), fun hp => ?drain, hcmd, hgot, hfault⟩
  case pay =>
    rw [exec_keyx, byPhase_pay hp] at h
    exact recvByte_keyxByte_frame h
  case kxInit => exact kxInitStep_frame ((exec_kxInit _ hp).symm.trans h)
  case kxMix => exact kxMixStep_frame ((exec_kxMix _ hp).symm.trans h)
  case resp => exact respStep_frame ((exec_resp _ hp).symm.trans h)
  case drain =>
    have hkept := recvByte_drainByte_outsideKeyx hp (hdrain hp)
    exact ⟨hkept.S, hkept.KEYED⟩

end Sys2Proof.Machine
end

section
/-! PROOFS. The marshaller (43_marshaller.md) on words and blocks: encoding and decoding undo each
other, and a block byte that arrives in its lane extends the block read so far (R184, R185). -/

namespace Sys2Proof.Machine

variable {u : Nat} {x : Word} {P : List Byte}

/-! ### Words -/

/-- A word of u + 1 bytes is its lowest byte, then the word of the other u bytes (R181). -/
theorem leEncode_succ (u : Nat) (x : Word) :
    leEncode (u + 1) x = BitVec.ofNat 8 x :: leEncode u (x / 2 ^ 8) := by
  have hlane : byteLane x ∘ Nat.succ = byteLane (x / 2 ^ 8) := by
    funext q
    simp only [Function.comp_apply, byteLane, Nat.mul_succ, Nat.add_comm _ 8, pow_add,
      Nat.div_div_eq_div_mul]
  rw [leEncode, List.range_succ_eq_map, List.map_cons, List.map_map, hlane, leEncode]
  simp [byteLane]

theorem leDecode_leEncode (hx : x < 2 ^ (8 * u)) : leDecode (leEncode u x) = x := by
  induction u generalizing x with
  | zero =>
    obtain rfl : x = 0 := by simpa using hx
    rfl
  | succ u ih =>
    have hrest : x / 2 ^ 8 < 2 ^ (8 * u) := by
      refine Nat.div_lt_of_lt_mul ?_
      rwa [← pow_add, Nat.add_comm 8]
    rw [leEncode_succ, leDecode, ih hrest, BitVec.toNat_ofNat, Nat.mod_add_div]

theorem leEncode_leDecode (d : List Byte) : leEncode d.length (leDecode d) = d := by
  induction d with
  | nil => rfl
  | cons v d ih =>
    have hv := v.isLt
    have hlow : BitVec.ofNat 8 (v.toNat + 2 ^ 8 * leDecode d) = v := by
      apply BitVec.eq_of_toNat_eq
      rw [BitVec.toNat_ofNat, Nat.add_mul_mod_self_left, Nat.mod_eq_of_lt hv]
    have hrest : (v.toNat + 2 ^ 8 * leDecode d) / 2 ^ 8 = leDecode d := by
      rw [Nat.add_mul_div_left _ _ (Nat.two_pow_pos 8), Nat.div_eq_of_lt hv, Nat.zero_add]
    rw [List.length_cons, leEncode_succ, leDecode, hlow, hrest, ih]

/-! ### Blocks -/

/-- A block of 2u bytes survives the way to words and back (R185). -/
theorem wordsToBlock_blockToWords (hlen : P.length = 2 * u) :
    wordsToBlock u (blockToWords u P).1 (blockToWords u P).2 = P := by
  have hA : (P.take u).length = u := by simp; omega
  have hB : ((P.drop u).take u).length = u := by simp; omega
  have hencA := leEncode_leDecode (P.take u)
  have hencB := leEncode_leDecode ((P.drop u).take u)
  rw [hA] at hencA
  rw [hB] at hencB
  rw [wordsToBlock, blockToWords, hencA, hencB,
    List.take_of_length_le (l := P.drop u) (by simp; omega), List.take_append_drop]

/-- Two words of u bytes survive the way to a block and back (R185). -/
theorem blockToWords_wordsToBlock {a b : Word} (ha : a < 2 ^ (8 * u)) (hb : b < 2 ^ (8 * u)) :
    blockToWords u (wordsToBlock u a b) = (a, b) := by
  rw [blockToWords, wordsToBlock, List.take_left' (leEncode_length u a),
    List.drop_left' (leEncode_length u a), List.take_of_length_le (leEncode_length u b).le,
    leDecode_leEncode ha, leDecode_leEncode hb]

/-- The words of a block, or of its first bytes, fit. -/
theorem blockToWords_lt (u : Nat) (P : List Byte) :
    (blockToWords u P).1 < 2 ^ (8 * u) ∧ (blockToWords u P).2 < 2 ^ (8 * u) := by
  have hlt : ∀ d : List Byte, leDecode (d.take u) < 2 ^ (8 * u) := fun d =>
    (leDecode_lt _).trans_le
      (Nat.pow_le_pow_right Nat.zero_lt_two (by rw [List.length_take]; omega))
  exact ⟨hlt P, hlt (P.drop u)⟩

theorem blockToWords_nil (u : Nat) : blockToWords u [] = (0, 0) := by
  simp [blockToWords, leDecode]

/-- The next byte of a block goes to the lane after those already read (R184). -/
theorem placeBlockByte_blockToWords (hlen : P.length < 2 * u) (v : Byte) :
    placeBlockByte u (blockToWords u P) P.length v = blockToWords u (P ++ [v]) := by
  by_cases hA : P.length < u
  · have hlane := setByteLane_leDecode P v
    have hA' : (P ++ [v]).length ≤ u := by simpa using hA
    rw [placeBlockByte, if_pos hA, blockToWords, blockToWords, List.take_of_length_le hA.le,
      List.take_of_length_le hA', List.drop_of_length_le hA.le, List.drop_of_length_le hA', hlane]
  · have hlane := setByteLane_leDecode (P.drop u) v
    have hB : (P.drop u).length ≤ u := by simp; omega
    have hB' : (P.drop u ++ [v]).length ≤ u := by simp; omega
    rw [List.length_drop] at hlane
    rw [placeBlockByte, if_neg hA, blockToWords, blockToWords,
      List.take_append_of_le_length (by omega), List.drop_append_of_le_length (by omega),
      List.take_of_length_le hB, List.take_of_length_le hB', hlane]

end Sys2Proof.Machine
end

section
/-! PROOFS. The single steps of ENC and DEC (42_block_transform.md): header decode, the entry to the
rounds, and one round, each with the response that the last of them brings. -/

namespace Sys2Proof.Machine

variable {s : State} {cfg : Config} {S : List (Option Word)} {ab ab' : Word × Word} {x y : Word}
  {n : Nat}

/-! ### Header decode -/

/-- ENC and DEC have the same header decode (R151, R202). -/
theorem exec_blockHeader {i : Instr} {len : Nat} (hi : i = .enc len ∨ i = .dec len)
    (hp : s.PHASE = .idle) : exec i s = blockHeader len s := by
  rcases hi with rfl | rfl
  · rw [exec_enc, byPhase_idle hp]
  · rw [exec_dec, byPhase_idle hp]

theorem blockHeader_of_ne {len : Nat} (hne : len ≠ s.cfg.blockBytes) :
    blockHeader len s = .next (lengthError stInvalidBlockLength len { s with RXCNT := some 0 }) :=
  if_pos hne

/-- The header decode with LEN = 2u: the keyed check comes second (R152, R184). -/
theorem blockHeader_of_eq (s : State) : blockHeader s.cfg.blockBytes s = .next
    (if s.KEYED = false then { s with RXCNT := some 0, FAULT := some .unkeyed }
    else { s with RXCNT := some 0, A := some 0, B := some 0, PHASE := .pay }) := by
  cases hkeyed : s.KEYED <;> simp [blockHeader, hkeyed, raiseFault]

/-- Settles O25: the length check first, then the keyed check, whose fault stops the core. -/
theorem blockCommandHeaderChecks : Obligations.BlockCommandHeaderChecks := by
  intro len i s hi hp
  rw [exec_blockHeader hi hp]
  by_cases hlen : len = s.cfg.blockBytes
  · subst hlen
    rw [blockHeader_of_eq]
    refine ⟨fun hne => absurd rfl hne, fun hne => absurd rfl hne, fun _ hunkeyed => ⟨?_, ?_⟩,
      fun _ hkeyed => ?_⟩
    · rw [if_pos hunkeyed]
    · exact fun h => (markedStateHasNoFurtherStep
        { s with RXCNT := some 0, FAULT := some .unkeyed } h .unkeyed .refOpcode).1 rfl
    · rw [if_neg (by simp [hkeyed])]
  · rw [blockHeader_of_ne hlen]
    refine ⟨fun _ hpos => ?_, fun _ hzero => ?_, fun he => absurd he hlen,
      fun he => absurd he hlen⟩
    · exact congrArg _ (if_neg hpos)
    · exact congrArg _ (if_pos hzero)

/-! ### Whitening and rounds on schedule words that hold values -/

theorem preWhiten_of_entries (hx : entry S 0 = some x) (hy : entry S 1 = some y) :
    preWhiten cfg S ab = some (addW cfg.w ab.1 x, addW cfg.w ab.2 y) := by
  simp [preWhiten, hx, hy]

theorem postWhiten_of_entries (hx : entry S 0 = some x) (hy : entry S 1 = some y) :
    postWhiten cfg S ab = some (subW cfg.w ab.1 x, subW cfg.w ab.2 y) := by
  simp [postWhiten, hx, hy]

/-- ENC round n: the half-round of B reads the new A (R154). -/
theorem encRound_of_entries (hx : entry S (2 * n) = some x) (hy : entry S (2 * n + 1) = some y) :
    let a := addW cfg.w (rolW cfg.w (xorW ab.1 ab.2) ab.2) x
    encRound cfg S n ab = some (a, addW cfg.w (rolW cfg.w (xorW ab.2 a) a) y) := by
  simp [encRound, hx, hy]

/-- DEC round n: the half-round of A reads the new B (R158). -/
theorem decRound_of_entries (hx : entry S (2 * n) = some x) (hy : entry S (2 * n + 1) = some y) :
    let b := xorW (rorW cfg.w (subW cfg.w ab.2 y) ab.1) ab.1
    decRound cfg S n ab = some (xorW (rorW cfg.w (subW cfg.w ab.1 x) b) b, b) := by
  simp [decRound, hx, hy]

/-! ### The entry to the rounds -/

/-- The entry of an ENC, when S[0] and S[1] hold values (R153, R155). -/
theorem encEntry_of_values (hab : preWhiten s.cfg s.S ab = some ab') :
    encEntry s ab = some (if s.cfg.r = 0 then finishBlock s ab'
      else { s with A := some ab'.1, B := some ab'.2, rnd := some 1, PHASE := .enRun }) := by
  by_cases hr : s.cfg.r = 0 <;>
    simp [encEntry, hab, hr, finishBlock, respond, discardWorking]

/-- The entry of a DEC with rounds to come (R157). -/
theorem decEntry_of_rounds (hr : s.cfg.r ≠ 0) :
    decEntry s ab = some { s with rnd := some s.cfg.r, PHASE := .deRun } :=
  if_neg hr

/-- The entry of a DEC with no rounds post-whitens at once (R159, R163). -/
theorem decEntry_of_noRounds (hr : s.cfg.r = 0) (hab : postWhiten s.cfg s.S ab = some ab') :
    decEntry s ab = some (finishBlock s ab') := by
  simp [decEntry, hr, decFinish, hab, finishBlock, respond, discardWorking]

/-- s with n block bytes taken, the words ab of them, and the bytes cmd still to be sent (R184). -/
def State.blockAt (s : State) (ab : Word × Word) (n : Nat) (cmd : List Byte) : State :=
  { s with
    A := some ab.1, B := some ab.2, RXCNT := some n, host := { s.host with cmd := cmd } }

/-- The last payload byte is placed, and the command enters its rounds (R203). -/
theorem recvByte_blockByte_last {entered : State → Word × Word → Option State} {a b : Word}
    {v : Byte} {rest : List Byte} (hn : s.RXCNT = some n) (hA : s.A = some a) (hB : s.B = some b)
    (ho : s.offered v rest) (hab : placeBlockByte s.cfg.u (a, b) n v = ab) {t : State}
    (ht : entered (s.blockAt ab (n + 1) rest) ab = some t) :
    recvByte (blockByte entered (n + 1)) s = .next t := by
  have hbyte := blockByte_of_values (s := s.received rest) (entered := entered) (len := n + 1)
    hn hA hB hab
  have hentered := congrArg (orNoValue (s.received rest)) ht
  rw [recvByte_offered ho.1 ho.2, hbyte, if_pos rfl]
  exact hentered

/-- Settles O27: the last byte enters by the pre-whitening. -/
theorem encPreWhitening : Obligations.EncPreWhitening := by
  rintro len n s v rest a b x y hp hn rfl hA hB hx hy ho
  dsimp only
  generalize hab : placeBlockByte s.cfg.u (a, b) n v = ab
  have hwhite := preWhiten_of_entries (cfg := s.cfg) (ab := ab) hx hy
  have hentry := encEntry_of_values (s := s.blockAt ab (n + 1) rest) hwhite
  rw [exec_enc, byPhase_pay hp, recvByte_blockByte_last hn hA hB ho hab hentry]
  exact ⟨fun hr => congrArg _ (if_neg hr), fun hr => congrArg _ (if_pos hr)⟩

/-- Settles O29: the last byte enters the rounds, or post-whitens when there are none. (The model
has a function `decEntry`, hence the name.) -/
theorem decEntryStep : Obligations.DecEntry := by
  rintro len n s v rest a b hp hn rfl hA hB ho
  dsimp only
  generalize hab : placeBlockByte s.cfg.u (a, b) n v = ab
  rw [exec_dec, byPhase_pay hp]
  refine ⟨fun hr => ?_, fun x y hr hx hy => ?_⟩
  · exact recvByte_blockByte_last hn hA hB ho hab (decEntry_of_rounds hr)
  · have hwhite := postWhiten_of_entries (cfg := s.cfg) (ab := ab) hx hy
    have hentry := decEntry_of_noRounds (s := s.blockAt ab (n + 1) rest) hr hwhite
    exact recvByte_blockByte_last hn hA hB ho hab hentry

/-! ### One round -/

theorem exec_enRun (i : Instr) (hp : s.PHASE = .enRun) : exec i s = enRunStep s := by
  rw [exec_eq_coreStep i (by simp [hp]) (by simp [hp])]
  simp [coreStep, byPhase, hp]

theorem exec_deRun (i : Instr) (hp : s.PHASE = .deRun) : exec i s = deRunStep s := by
  rw [exec_eq_coreStep i (by simp [hp]) (by simp [hp])]
  simp [coreStep, byPhase, hp]

/-- Settles O28: the step is one ENC round, and round r is answered. -/
theorem encRoundStep : Obligations.EncRoundStep := by
  intro len n s a b x y hp hn hA hB hx hy
  rw [exec_enRun _ hp, enRunStep_of_values hA hB hn (encRound_of_entries hx hy)]
  exact ⟨fun hmore => congrArg _ (if_neg hmore), fun hlast => congrArg _ (if_pos hlast)⟩

/-- A DEC round before the last (R158). -/
theorem deRunStep_of_more {a b : Word} (hA : s.A = some a) (hB : s.B = some b)
    (hn : s.rnd = some (n + 1)) (hmore : n ≠ 0)
    (hab : decRound s.cfg s.S (n + 1) (a, b) = some ab) :
    deRunStep s = .next { s with A := some ab.1, B := some ab.2, rnd := some n } := by
  simp [deRunStep, hA, hB, hn, hab, hmore]

/-- Settles O30: the step is one DEC round, and round 1 post-whitens and is answered. -/
theorem decRoundStep : Obligations.DecRoundStep := by
  intro len n s a b x y hp hn hA hB hx hy
  have hround := decRound_of_entries (cfg := s.cfg) (ab := (a, b)) hx hy
  rw [exec_deRun _ hp]
  refine ⟨fun hmore => deRunStep_of_more hA hB hn hmore hround, fun p q hlast hp hq => ?_⟩
  subst hlast
  exact deRunStep_of_values hA hB hn hround (postWhiten_of_entries hp hq)

end Sys2Proof.Machine
end

section
/-! PROOFS. DEC undoes ENC and ENC undoes DEC (R161): whitening and each round are inverted by the
datapath laws of R110, and the rounds of the two commands run in opposite order. -/

namespace Sys2Proof.Machine

variable {cfg : Config} {S : List (Option Word)} {ab : Word × Word} {K P : List Byte} {n : Nat}

/-! ### Full schedules and the words of a block -/

/-- What key expansion leaves in S: t entries, each a word of w bits (R34, R120). -/
structure FullSchedule (cfg : Config) (S : List (Option Word)) : Prop where
  length : S.length = cfg.t
  valued : allValued S
  fits : ∀ o ∈ S, wordFits cfg.w o

theorem FullSchedule.entry (hS : FullSchedule cfg S) (hn : n < cfg.t) :
    ∃ x, entry S n = some x ∧ x < 2 ^ cfg.w := by
  obtain ⟨x, hx⟩ := entry_of_valued hS.valued (hS.length ▸ hn)
  exact ⟨x, hx, entry_fits hS.fits hx⟩

/-- The two words of round n (R154, R158). -/
theorem FullSchedule.roundEntries (hS : FullSchedule cfg S) (hn : n ≤ cfg.r) :
    ∃ x y, Machine.entry S (2 * n) = some x ∧ Machine.entry S (2 * n + 1) = some y ∧
      x < 2 ^ cfg.w ∧ y < 2 ^ cfg.w := by
  obtain ⟨x, hx, fx⟩ := hS.entry (n := 2 * n) (by rw [Config.t]; omega)
  obtain ⟨y, hy, fy⟩ := hS.entry (n := 2 * n + 1) (by rw [Config.t]; omega)
  exact ⟨x, y, hx, hy, fx, fy⟩

/-- Expand gives a full schedule (R120). -/
theorem expand_fullSchedule (hlegal : cfg.legal = true) (hlen : K.length = cfg.b) :
    ∃ S, expand cfg K = some S ∧ FullSchedule cfg S := by
  obtain ⟨S, hS, hinit⟩ := init_spec hlegal
  obtain ⟨m, hm, hfull⟩ := (full_mixStart hlegal hinit K).mixLoop hlegal cfg.nMix
  exact ⟨m.S, expand_eq_some.2 ⟨_, S, m, pack_eq hlegal hlen, hS, hm, rfl⟩, hfull.lenS,
    hfull.valuedS, hfull.fitsS⟩

/-- Both words of a block are words of w bits (R10). -/
def BlockFits (w : Nat) (ab : Word × Word) : Prop := Word.fits w ab.1 ∧ Word.fits w ab.2

theorem blockFits_blockToWords (hlegal : cfg.legal = true) (P : List Byte) :
    BlockFits cfg.w (blockToWords cfg.u P) := by
  rw [← eight_mul_u hlegal]
  exact blockToWords_lt cfg.u P

theorem blockToWords_wordsToBlock_of_fits (hlegal : cfg.legal = true) (hab : BlockFits cfg.w ab) :
    blockToWords cfg.u (wordsToBlock cfg.u ab.1 ab.2) = ab := by
  rw [← eight_mul_u hlegal] at hab
  exact blockToWords_wordsToBlock hab.1 hab.2

/-! ### Each step and its inverse -/

/-- The post-whitening takes the pre-whitening back (R153, R159). -/
theorem postWhiten_preWhiten (hS : FullSchedule cfg S) (hab : BlockFits cfg.w ab) :
    ∃ ab', preWhiten cfg S ab = some ab' ∧ BlockFits cfg.w ab' ∧
      postWhiten cfg S ab' = some ab := by
  obtain ⟨x, y, hx, hy, fx, fy⟩ := hS.roundEntries (Nat.zero_le cfg.r)
  refine ⟨_, preWhiten_of_entries hx hy, ⟨addW_fits .., addW_fits ..⟩, ?_⟩
  rw [postWhiten_of_entries hx hy, subW_addW hab.1 fx, subW_addW hab.2 fy]

/-- The pre-whitening takes the post-whitening back. -/
theorem preWhiten_postWhiten (hS : FullSchedule cfg S) (hab : BlockFits cfg.w ab) :
    ∃ ab', postWhiten cfg S ab = some ab' ∧ BlockFits cfg.w ab' ∧
      preWhiten cfg S ab' = some ab := by
  obtain ⟨x, y, hx, hy, fx, fy⟩ := hS.roundEntries (Nat.zero_le cfg.r)
  refine ⟨_, postWhiten_of_entries hx hy, ⟨subW_fits .., subW_fits ..⟩, ?_⟩
  rw [preWhiten_of_entries hx hy, addW_subW hab.1 fx, addW_subW hab.2 fy]

/-- A DEC round takes the ENC round of its number back: B first, with the new A as key, and then A
with the old B (R154, R158). -/
theorem decRound_encRound (hS : FullSchedule cfg S) (hn : n ≤ cfg.r) (hab : BlockFits cfg.w ab) :
    ∃ ab', encRound cfg S n ab = some ab' ∧ BlockFits cfg.w ab' ∧
      decRound cfg S n ab' = some ab := by
  obtain ⟨x, y, hx, hy, fx, fy⟩ := hS.roundEntries hn
  obtain ⟨fa, fb⟩ := hab
  have hhalf : ∀ {a b z : Word}, a < 2 ^ cfg.w → b < 2 ^ cfg.w → z < 2 ^ cfg.w →
      xorW (rorW cfg.w (subW cfg.w (addW cfg.w (rolW cfg.w (xorW a b) b) z) z) b) b = a := by
    intro a b z fa fb fz
    rw [subW_addW (rolW_fits _ (xorW_fits fa fb)) fz, rorW_rolW (xorW_fits fa fb), xorW_xorW]
  refine ⟨_, encRound_of_entries hx hy, ⟨addW_fits .., addW_fits ..⟩, ?_⟩
  rw [decRound_of_entries hx hy]
  dsimp only
  rw [hhalf fb (addW_fits ..) fy, hhalf fa fb fx]

/-- An ENC round takes the DEC round of its number back. -/
theorem encRound_decRound (hS : FullSchedule cfg S) (hn : n ≤ cfg.r) (hab : BlockFits cfg.w ab) :
    ∃ ab', decRound cfg S n ab = some ab' ∧ BlockFits cfg.w ab' ∧
      encRound cfg S n ab' = some ab := by
  obtain ⟨x, y, hx, hy, fx, fy⟩ := hS.roundEntries hn
  obtain ⟨fa, fb⟩ := hab
  have hhalf : ∀ {a b z : Word}, a < 2 ^ cfg.w → z < 2 ^ cfg.w →
      addW cfg.w (rolW cfg.w (xorW (xorW (rorW cfg.w (subW cfg.w a z) b) b) b) b) z = a := by
    intro a b z fa fz
    rw [xorW_xorW, rolW_rorW (subW_fits ..), addW_subW fa fz]
  have hb := xorW_fits (rorW_fits ab.1 (subW_fits cfg.w ab.2 y)) fa
  refine ⟨_, decRound_of_entries hx hy, ⟨xorW_fits (rorW_fits _ (subW_fits ..)) hb, hb⟩, ?_⟩
  rw [encRound_of_entries hx hy]
  dsimp only
  rw [hhalf fa fx, hhalf fb fy]

/-! ### The rounds, in opposite orders -/

/-- The DEC rounds n, ..., 1 take the ENC rounds 1, ..., n back (R150, R156). -/
theorem decRounds_encRounds (hS : FullSchedule cfg S) (hn : n ≤ cfg.r) (hab : BlockFits cfg.w ab) :
    ∃ ab', encRounds cfg S n ab = some ab' ∧ BlockFits cfg.w ab' ∧
      decRounds cfg S n ab' = some ab := by
  induction n with
  | zero => exact ⟨ab, rfl, hab, rfl⟩
  | succ n ih =>
    obtain ⟨mid, hmid, fmid, hback⟩ := ih (by omega)
    obtain ⟨ab', hab', fab', hround⟩ := decRound_encRound hS hn fmid
    refine ⟨ab', ?_, fab', ?_⟩
    · rw [encRounds, hmid, Option.bind_some, hab']
    · rw [decRounds, hround, Option.bind_some, hback]

/-- The ENC rounds 1, ..., n take the DEC rounds n, ..., 1 back. -/
theorem encRounds_decRounds (hS : FullSchedule cfg S) (hn : n ≤ cfg.r) (hab : BlockFits cfg.w ab) :
    ∃ ab', decRounds cfg S n ab = some ab' ∧ BlockFits cfg.w ab' ∧
      encRounds cfg S n ab' = some ab := by
  induction n generalizing ab with
  | zero => exact ⟨ab, rfl, hab, rfl⟩
  | succ n ih =>
    obtain ⟨mid, hmid, fmid, hround⟩ := encRound_decRound hS hn hab
    obtain ⟨ab', hab', fab', hback⟩ := ih (by omega) fmid
    refine ⟨ab', ?_, fab', ?_⟩
    · rw [decRounds, hmid, Option.bind_some, hab']
    · rw [encRounds, hback, Option.bind_some, hround]

/-! ### Whole blocks -/

theorem encrypt_eq_some {C : List Byte} : encrypt cfg S P = some C ↔
    ∃ ab ab', preWhiten cfg S (blockToWords cfg.u P) = some ab ∧
      encRounds cfg S cfg.r ab = some ab' ∧ wordsToBlock cfg.u ab'.1 ab'.2 = C := by
  simp [encrypt, Option.bind_eq_some_iff]

theorem decrypt_eq_some {C : List Byte} : decrypt cfg S P = some C ↔
    ∃ ab ab', decRounds cfg S cfg.r (blockToWords cfg.u P) = some ab ∧
      postWhiten cfg S ab = some ab' ∧ wordsToBlock cfg.u ab'.1 ab'.2 = C := by
  simp [decrypt, Option.bind_eq_some_iff]

/-- Decrypt takes Encrypt back, under a full schedule (R161). -/
theorem decrypt_encrypt (hlegal : cfg.legal = true) (hS : FullSchedule cfg S)
    (hlen : P.length = cfg.blockBytes) :
    ∃ C, encrypt cfg S P = some C ∧ C.length = cfg.blockBytes ∧ decrypt cfg S C = some P := by
  obtain ⟨ab, hpre, fab, hpost⟩ := postWhiten_preWhiten hS (blockFits_blockToWords hlegal P)
  obtain ⟨ab', henc, fab', hdec⟩ := decRounds_encRounds hS le_rfl fab
  refine ⟨_, encrypt_eq_some.2 ⟨ab, ab', hpre, henc, rfl⟩, wordsToBlock_length .., ?_⟩
  refine decrypt_eq_some.2 ⟨ab, _, ?_, hpost, wordsToBlock_blockToWords hlen⟩
  rw [blockToWords_wordsToBlock_of_fits hlegal fab', hdec]

/-- Encrypt takes Decrypt back, under a full schedule (R161). -/
theorem encrypt_decrypt (hlegal : cfg.legal = true) (hS : FullSchedule cfg S)
    (hlen : P.length = cfg.blockBytes) :
    ∃ D, decrypt cfg S P = some D ∧ D.length = cfg.blockBytes ∧ encrypt cfg S D = some P := by
  obtain ⟨ab, hdec, fab, henc⟩ :=
    encRounds_decRounds hS le_rfl (blockFits_blockToWords hlegal P)
  obtain ⟨ab', hpost, fab', hpre⟩ := preWhiten_postWhiten hS fab
  refine ⟨_, decrypt_eq_some.2 ⟨ab, ab', hdec, hpost, rfl⟩, wordsToBlock_length .., ?_⟩
  refine encrypt_eq_some.2 ⟨ab, _, ?_, henc, wordsToBlock_blockToWords hlen⟩
  rw [blockToWords_wordsToBlock_of_fits hlegal fab', hpre]

/-- Settles O31: the schedule of Expand is full, and under it each step has its inverse. -/
theorem decryptInvertsEncrypt : Obligations.DecryptInvertsEncrypt := by
  intro cfg K P hlegal hK hP
  obtain ⟨S, hS, hfull⟩ := expand_fullSchedule hlegal hK
  refine ⟨S, hS, decrypt_encrypt hlegal hfull hP, encrypt_decrypt hlegal hfull hP, ?_⟩
  intro n ab hn ha hb
  obtain ⟨before, hbefore, fbefore, -⟩ := decRounds_encRounds hfull hn.le ⟨ha, hb⟩
  obtain ⟨after, hafter, -, hback⟩ := decRound_encRound hfull hn fbefore
  exact ⟨before, after, hbefore, by rw [encRounds, hbefore, Option.bind_some, hafter], hback⟩

end Sys2Proof.Machine
end

section
/-! PROOFS. With no rounds (R163) ENC and DEC only whiten, and no step enters EN_RUN or DE_RUN. -/

namespace Sys2Proof.Machine

variable {s t : State}

/-! ### No step enters the rounds -/

/-- The phase of s is no round phase. -/
def State.OutsideRounds (s : State) : Prop := s.PHASE ≠ .enRun ∧ s.PHASE ≠ .deRun

/-- The step from s to t keeps out of the rounds. -/
def KeepsOut (s t : State) : Prop := s.OutsideRounds → t.OutsideRounds

theorem keepsOut_of_phase (h : t.PHASE = s.PHASE) : KeepsOut s t := by
  intro hs
  rwa [State.OutsideRounds, h]

theorem keepsOut_of_outside (h : t.PHASE ≠ .enRun ∧ t.PHASE ≠ .deRun) : KeepsOut s t := fun _ => h

theorem lengthError_keepsOut (st : Byte) (len : Nat) (s : State) :
    KeepsOut s (lengthError st len s) := by
  rcases lengthError_cases st len s with ⟨-, e⟩ | ⟨-, e⟩ <;> rw [e] <;>
    exact keepsOut_of_outside (by simp)

theorem keyxHeader_keepsOut {len : Nat} (h : keyxHeader len s = .next t) : KeepsOut s t := by
  rcases keyxHeader_outcomes h with ⟨-, rfl | rfl⟩ | ⟨-, rfl | rfl⟩ <;>
    exact keepsOut_of_outside (by simp)

theorem keyxByte_keepsOut {len : Nat} {v : Byte} (h : keyxByte len v s = .next t) :
    KeepsOut s t := by
  rcases keyxByte_cases h with ⟨_, _, -, -, ⟨-, rfl⟩ | ⟨-, rfl⟩⟩ | rfl
  · exact keepsOut_of_phase rfl
  · exact keepsOut_of_outside (by simp)
  · exact keepsOut_of_phase rfl

theorem kxInitStep_keepsOut (h : kxInitStep s = .next t) : KeepsOut s t := by
  rcases kxInitStep_cases h with ⟨_, _, -, -, ⟨-, rfl⟩ | ⟨-, rfl⟩⟩ | rfl
  · exact keepsOut_of_phase rfl
  · exact keepsOut_of_outside (by simp)
  · exact keepsOut_of_phase rfl

theorem kxMixStep_keepsOut (h : kxMixStep s = .next t) : KeepsOut s t := by
  rcases kxMixStep_cases h with ⟨_, _, _, _, _, _, -, -, -, -, -, -, ⟨-, rfl⟩ | ⟨-, rfl⟩⟩ | rfl
  · exact keepsOut_of_phase rfl
  · exact keepsOut_of_outside (by simp)
  · exact keepsOut_of_phase rfl

theorem blockHeader_keepsOut {len : Nat} (h : blockHeader len s = .next t) : KeepsOut s t := by
  rcases blockHeader_cases h with ⟨-, rfl⟩ | ⟨-, -, rfl⟩ | ⟨-, -, rfl⟩
  · exact lengthError_keepsOut stInvalidBlockLength len { s with RXCNT := some 0 }
  · exact keepsOut_of_phase rfl
  · exact keepsOut_of_outside (by simp)

/-- With no rounds the entry of an ENC is its finish. -/
theorem encEntry_keepsOut {ab : Word × Word} (h : encEntry s ab = some t) (hr : s.cfg.r = 0) :
    KeepsOut s t := by
  obtain ⟨_, -, ⟨-, rfl⟩ | ⟨hpos, -⟩⟩ := encEntry_cases h
  · exact keepsOut_of_outside (by simp)
  · exact absurd hr hpos

/-- With no rounds the entry of a DEC is its finish. -/
theorem decEntry_keepsOut {ab : Word × Word} (h : decEntry s ab = some t) (hr : s.cfg.r = 0) :
    KeepsOut s t := by
  rcases decEntry_cases h with ⟨hpos, -⟩ | ⟨-, _, -, rfl⟩
  · exact absurd hr hpos
  · exact keepsOut_of_outside (by simp)

theorem blockByte_keepsOut {entered : State → Word × Word → Option State} {len : Nat} {v : Byte}
    (hentered : ∀ {s t ab}, entered s ab = some t → s.cfg.r = 0 → KeepsOut s t)
    (hr : s.cfg.r = 0) (h : blockByte entered len v s = .next t) : KeepsOut s t := by
  rcases blockByte_cases h with ⟨n, a, b, -, -, -, ⟨-, rfl⟩ | ⟨-, ht⟩⟩ | rfl
  · exact keepsOut_of_phase rfl
  · have hout := hentered ht hr
    exact hout
  · exact keepsOut_of_phase rfl

theorem drainByte_keepsOut {v : Byte} (h : drainByte v s = .next t) : KeepsOut s t := by
  rcases drainByte_cases h with ⟨_, _, -, -, ⟨-, rfl⟩ | ⟨-, _, -, rfl⟩⟩ | rfl
  · exact keepsOut_of_phase rfl
  · exact keepsOut_of_outside (by simp)
  · exact keepsOut_of_phase rfl

theorem respStep_keepsOut (h : respStep s = .next t) : KeepsOut s t := by
  rcases respStep_cases h with ⟨-, rfl⟩ | ⟨_, _, _, -, -, -, -, rfl⟩ | rfl
  · exact keepsOut_of_phase rfl
  · exact keepsOut_of_outside (by rw [sendByte_PHASE]; dsimp only; split <;> simp)
  · exact keepsOut_of_phase rfl

theorem recvByte_keepsOut {f : Byte → State → Outcome}
    (hf : ∀ {v host}, f v { s with host := host } = .next t →
      KeepsOut { s with host := host } t)
    (h : recvByte f s = .next t) : KeepsOut s t := by
  rcases recvByte_eq_next h with rfl | ⟨v, host, h⟩
  · exact keepsOut_of_phase rfl
  · have hout := hf h
    exact hout

/-- A command, in any of its phases outside the rounds. -/
theorem byPhase_keepsOut {header payload : State → Outcome}
    (hheader : header s = .next t → KeepsOut s t) (hpayload : payload s = .next t → KeepsOut s t)
    (h : byPhase header payload s = .next t) : KeepsOut s t := by
  rcases byPhase_cases h with ⟨-, h⟩ | ⟨-, h⟩ | ⟨-, h⟩ | ⟨-, h⟩ | ⟨-, h⟩ | ⟨hp, -⟩ | ⟨hp, -⟩ |
    ⟨-, h⟩
  · exact hheader h
  · exact hpayload h
  · exact recvByte_keepsOut drainByte_keepsOut h
  · exact kxInitStep_keepsOut h
  · exact kxMixStep_keepsOut h
  · exact fun hs => absurd hp hs.1
  · exact fun hs => absurd hp hs.2
  · exact respStep_keepsOut h

theorem exec_keepsOut {i : Instr} (hr : s.cfg.r = 0) (h : exec i s = .next t) : KeepsOut s t := by
  cases i with
  | keyx len =>
    rw [exec_keyx] at h
    exact byPhase_keepsOut keyxHeader_keepsOut (recvByte_keepsOut keyxByte_keepsOut) h
  | enc len =>
    rw [exec_enc] at h
    exact byPhase_keepsOut blockHeader_keepsOut
      (recvByte_keepsOut (blockByte_keepsOut encEntry_keepsOut hr)) h
  | dec len =>
    rw [exec_dec] at h
    exact byPhase_keepsOut blockHeader_keepsOut
      (recvByte_keepsOut (blockByte_keepsOut decEntry_keepsOut hr)) h

theorem runCommandWord_keepsOut (hr : s.cfg.r = 0) (h : runCommandWord s = .next t) :
    KeepsOut s t := by
  rcases runCommandWord_cases s with ⟨_, i, -, -, e⟩ | ⟨_, -, -, e⟩ | ⟨_, -, -, e⟩ | ⟨-, e⟩ <;>
    rw [e] at h
  · exact exec_keepsOut hr h
  all_goals
    obtain rfl := Host.Outcome.next.inj h
    exact keepsOut_of_phase rfl

theorem headerByte_keepsOut {v : Byte} (hr : s.cfg.r = 0) (h : headerByte v s = .next t) :
    KeepsOut s t := by
  rcases headerByte_cases v s with ⟨-, e⟩ | ⟨-, e⟩ <;> rw [e] at h
  · obtain rfl := Host.Outcome.next.inj h
    exact keepsOut_of_phase rfl
  · exact runCommandWord_keepsOut (s := { s with CW := _, HDRCNT := 0 }) hr h

/-! ### The statement -/

/-- With r = 0 Encrypt is the pre-whitening and Decrypt the post-whitening (R163). -/
theorem encrypt_decrypt_of_noRounds {cfg : Config} {S : List (Option Word)} {x y : Word}
    (hr : cfg.r = 0) (hx : entry S 0 = some x) (hy : entry S 1 = some y) (P : List Byte) :
    encrypt cfg S P = some (wordsToBlock cfg.u (addW cfg.w (blockToWords cfg.u P).1 x)
        (addW cfg.w (blockToWords cfg.u P).2 y)) ∧
      decrypt cfg S P = some (wordsToBlock cfg.u (subW cfg.w (blockToWords cfg.u P).1 x)
        (subW cfg.w (blockToWords cfg.u P).2 y)) := by
  constructor
  · exact encrypt_eq_some.2 ⟨_, _, preWhiten_of_entries hx hy, by rw [hr, encRounds], rfl⟩
  · exact decrypt_eq_some.2 ⟨_, _, by rw [hr, decRounds], postWhiten_of_entries hx hy, rfl⟩

/-- Settles O32: the cipher by its definition with r = 0, the phases by the kinds of step. -/
theorem zeroRoundsOnlyWhiten : Obligations.ZeroRoundsOnlyWhiten := by
  refine ⟨fun cfg S P x y hr hx hy => ?_, fun s t hr hen hde h => ?_⟩
  · exact ⟨by rw [Config.t, hr], encrypt_decrypt_of_noRounds hr hx hy P⟩
  · obtain ⟨-, -, ⟨-, rfl⟩ | ⟨-, ⟨-, rfl⟩ | ⟨-, u, hu, rfl⟩⟩⟩ := step_cases h
    · exact ⟨hen, hde⟩
    · simp
    · have hout := byPhase_keepsOut (recvByte_keepsOut (headerByte_keepsOut hr))
        (runCommandWord_keepsOut hr) hu
      exact hout ⟨hen, hde⟩

end Sys2Proof.Machine
end

section
/-! PROOFS. The frame of ENC and DEC (42_block_transform.md), phase by phase: the host's side and
the marks, and the fields a step may change, S and KEYED never among them (R162). -/

namespace Sys2Proof.Machine

variable {s t : State} {len : Nat} {i : Instr}

/-! ### What each step can answer, as to the frame -/

/-- The header decode of an ENC or DEC: with a wrong length it answers or drains, with the right one
it faults or waits for the block (R151, R152). -/
theorem blockHeader_outcomes (h : blockHeader len s = .next t) :
    t = respond stInvalidBlockLength [] { s with RXCNT := some 0 } ∨
      t = { s with RXCNT := some 0, ST := some stInvalidBlockLength, PHASE := .drain } ∨
      s.KEYED = false ∧ t = { s with RXCNT := some 0, FAULT := some .unkeyed } ∨
      t = { s with RXCNT := some 0, A := some 0, B := some 0, PHASE := .pay } := by
  rcases blockHeader_cases h with ⟨-, rfl⟩ | ⟨-, hkeyed, rfl⟩ | ⟨-, -, rfl⟩
  · rcases lengthError_cases stInvalidBlockLength len { s with RXCNT := some 0 } with
      ⟨-, e⟩ | ⟨-, e⟩
    · exact .inl e
    · exact .inr (.inl e)
  · exact .inr (.inr (.inl ⟨hkeyed, rfl⟩))
  · exact .inr (.inr (.inr rfl))

/-! ### The host and the marks -/

theorem blockHeader_host (h : blockHeader len s = .next t) : t.host = s.host := by
  rcases blockHeader_outcomes h with rfl | rfl | ⟨-, rfl⟩ | rfl <;> rfl

/-- The header decode raises F_UNKEYED at most, and on an unkeyed core only (R152). -/
theorem blockHeader_fault (h : blockHeader len s = .next t) :
    t.FAULT = s.FAULT ∨ t.FAULT = some .unkeyed ∧ s.KEYED = false := by
  rcases blockHeader_outcomes h with rfl | rfl | ⟨hkeyed, rfl⟩ | rfl
  · exact .inl rfl
  · exact .inl rfl
  · exact .inr ⟨rfl, hkeyed⟩
  · exact .inl rfl

theorem encEntry_hostKept {ab : Word × Word} (h : encEntry s ab = some t) : HostKept s t := by
  obtain ⟨_, -, ⟨-, rfl⟩ | ⟨-, rfl⟩⟩ := encEntry_cases h <;> exact ⟨rfl, .inl rfl⟩

theorem decEntry_hostKept {ab : Word × Word} (h : decEntry s ab = some t) : HostKept s t := by
  rcases decEntry_cases h with ⟨-, rfl⟩ | ⟨-, _, -, rfl⟩ <;> exact ⟨rfl, .inl rfl⟩

theorem blockByte_hostKept {entered : State → Word × Word → Option State} {v : Byte}
    (hentered : ∀ {s t ab}, entered s ab = some t → HostKept s t)
    (h : blockByte entered len v s = .next t) : HostKept s t := by
  rcases blockByte_cases h with ⟨_, _, _, -, -, -, ⟨-, rfl⟩ | ⟨-, ht⟩⟩ | rfl
  · exact ⟨rfl, .inl rfl⟩
  · have hkept := hentered ht
    exact hkept
  · exact ⟨rfl, .inr rfl⟩

/-- A step in PAY of an ENC or DEC takes a block byte, which its entry to the rounds follows. -/
theorem exec_blockByte (hi : i = .enc len ∨ i = .dec len) (hp : s.PHASE = .pay) :
    ∃ entered, (entered = encEntry ∨ entered = decEntry) ∧
      exec i s = recvByte (blockByte entered len) s := by
  rcases hi with rfl | rfl
  · exact ⟨encEntry, .inl rfl, by rw [exec_enc, byPhase_pay hp]⟩
  · exact ⟨decEntry, .inr rfl, by rw [exec_dec, byPhase_pay hp]⟩

/-- The streams and the marks, in every phase but IDLE. -/
theorem block_streamFrame (hi : i = .enc len ∨ i = .dec len) (hidle : s.PHASE ≠ .idle)
    (h : exec i s = .next t) : StreamFrame s t := by
  by_cases hpay : s.PHASE = .pay
  · obtain ⟨entered, hentered, e⟩ := exec_blockByte hi hpay
    rw [e] at h
    rcases hentered with rfl | rfl
    · exact recvByte_streamFrame (.inl hpay) (blockByte_hostKept encEntry_hostKept) h
    · exact recvByte_streamFrame (.inl hpay) (blockByte_hostKept decEntry_hostKept) h
  · -- after PAY the phase alone names the step, so it is that of a KEYX
    rw [exec_eq_coreStep i hidle hpay, ← exec_eq_coreStep (.keyx 0) hidle hpay] at h
    exact keyx_streamFrame h

/-! ### The fields a step may change -/

/-- What the step that answers an ENC or DEC may change. -/
def BlockAnswer (s t : State) : Prop := t =
  { s with
    RXCNT := t.RXCNT, ST := t.ST, DATA := t.DATA, RLEN := t.RLEN, TXCNT := t.TXCNT
    PHASE := t.PHASE, L := t.L, A := t.A, B := t.B, i := t.i, j := t.j, k := t.k, rnd := t.rnd
    host := { s.host with cmd := t.host.cmd } }

/-- What an ENC or DEC may change, phase by phase, and in the step that answers it. -/
structure BlockFrame (s t : State) : Prop where
  idle : s.PHASE = .idle → t.PHASE ≠ .resp → t =
    { s with
      RXCNT := t.RXCNT, ST := t.ST, A := t.A, B := t.B, PHASE := t.PHASE, FAULT := t.FAULT }
  pay : s.PHASE = .pay → t.PHASE ≠ .resp → t =
    { s with
      A := t.A, B := t.B, RXCNT := t.RXCNT, rnd := t.rnd, PHASE := t.PHASE, FAULT := t.FAULT
      host := { s.host with cmd := t.host.cmd } }
  drain : s.PHASE = .drain → t.PHASE ≠ .resp → t =
    { s with
      RXCNT := t.RXCNT, FAULT := t.FAULT, host := { s.host with cmd := t.host.cmd } }
  rounds : s.PHASE = .enRun ∨ s.PHASE = .deRun → t.PHASE ≠ .resp → t =
    { s with A := t.A, B := t.B, rnd := t.rnd, FAULT := t.FAULT }
  answer : s.PHASE ≠ .resp → t.PHASE = .resp → BlockAnswer s t
  resp : s.PHASE = .resp → t =
    { s with
      TXCNT := t.TXCNT, PHASE := t.PHASE, FAULT := t.FAULT
      host := { s.host with got := t.host.got } }

/-- The step from s to t answers the command, or goes on with it as said. -/
def AnswersOr (s t : State) (goesOn : Prop) : Prop :=
  t.PHASE = .resp ∧ BlockAnswer s t ∨ t.PHASE ≠ .resp ∧ goesOn

theorem AnswersOr.goesOn {goesOn : Prop} (h : AnswersOr s t goesOn) (ht : t.PHASE ≠ .resp) :
    goesOn := by
  rcases h with ⟨ht', -⟩ | ⟨-, h⟩
  · exact absurd ht' ht
  · exact h

theorem AnswersOr.answer {goesOn : Prop} (h : AnswersOr s t goesOn) (ht : t.PHASE = .resp) :
    BlockAnswer s t := by
  rcases h with ⟨-, h⟩ | ⟨ht', -⟩
  · exact h
  · exact absurd ht ht'

theorem blockHeader_frame (hp : s.PHASE = .idle) (h : blockHeader len s = .next t) :
    AnswersOr s t (t =
      { s with
        RXCNT := t.RXCNT, ST := t.ST, A := t.A, B := t.B, PHASE := t.PHASE
        FAULT := t.FAULT }) := by
  rcases blockHeader_outcomes h with rfl | rfl | ⟨-, rfl⟩ | rfl
  · exact .inl ⟨rfl, rfl⟩
  all_goals exact .inr ⟨by simp [hp], rfl⟩

/-- The entry to the rounds writes A, B, rnd and PHASE, or answers (R153, R157). -/
def EntryFrame (s t : State) : Prop :=
  AnswersOr s t (t = { s with A := t.A, B := t.B, rnd := t.rnd, PHASE := t.PHASE })

theorem encEntry_frame {ab : Word × Word} (h : encEntry s ab = some t) : EntryFrame s t := by
  obtain ⟨_, -, ⟨-, rfl⟩ | ⟨-, rfl⟩⟩ := encEntry_cases h
  · exact .inl ⟨rfl, rfl⟩
  · exact .inr ⟨by simp, rfl⟩

theorem decEntry_frame {ab : Word × Word} (h : decEntry s ab = some t) : EntryFrame s t := by
  rcases decEntry_cases h with ⟨-, rfl⟩ | ⟨-, _, -, rfl⟩
  · exact .inr ⟨by simp, rfl⟩
  · exact .inl ⟨rfl, rfl⟩

/-- A block byte, or the wait for it. -/
theorem recvByte_blockByte_frame {entered : State → Word × Word → Option State}
    (hentered : ∀ {s t ab}, entered s ab = some t → EntryFrame s t) (hp : s.PHASE = .pay)
    (h : recvByte (blockByte entered len) s = .next t) :
    AnswersOr s t (t =
      { s with
        A := t.A, B := t.B, RXCNT := t.RXCNT, rnd := t.rnd, PHASE := t.PHASE, FAULT := t.FAULT
        host := { s.host with cmd := t.host.cmd } }) := by
  have hstay : s.PHASE ≠ .resp := by simp [hp]
  rcases recvByte_eq_next_tail h with rfl | ⟨v, h⟩
  · exact .inr ⟨hstay, rfl⟩
  rcases blockByte_cases h with ⟨_, _, _, -, -, -, ⟨-, rfl⟩ | ⟨-, ht⟩⟩ | rfl
  · exact .inr ⟨hstay, rfl⟩
  · rcases hentered ht with ⟨hanswers, e⟩ | ⟨hon, e⟩
    · exact .inl ⟨hanswers, e.trans (by rw [e])⟩
    · exact .inr ⟨hon, e.trans (by rw [e])⟩
  · exact .inr ⟨hstay, rfl⟩

theorem recvByte_drainByte_answer (hp : s.PHASE ≠ .resp) (h : recvByte drainByte s = .next t)
    (ht : t.PHASE = .resp) : BlockAnswer s t := by
  rcases recvByte_eq_next_tail h with rfl | ⟨v, h⟩
  · exact absurd ht hp
  · rcases drainByte_cases h with ⟨_, _, -, -, ⟨-, rfl⟩ | ⟨-, _, -, rfl⟩⟩ | rfl
    · exact absurd ht hp
    · rfl
    · exact absurd ht hp

/-- A round of ENC or DEC writes A, B and rnd, or answers (R154, R158). -/
def RoundFrame (s t : State) : Prop :=
  AnswersOr s t (t = { s with A := t.A, B := t.B, rnd := t.rnd, FAULT := t.FAULT })

theorem enRunStep_frame (hp : s.PHASE ≠ .resp) (h : enRunStep s = .next t) : RoundFrame s t := by
  rcases enRunStep_cases h with ⟨_, _, _, _, -, -, -, -, ⟨-, rfl⟩ | ⟨-, rfl⟩⟩ | rfl
  · exact .inr ⟨hp, rfl⟩
  · exact .inl ⟨rfl, rfl⟩
  · exact .inr ⟨hp, rfl⟩

theorem deRunStep_frame (hp : s.PHASE ≠ .resp) (h : deRunStep s = .next t) : RoundFrame s t := by
  rcases deRunStep_cases h with ⟨_, _, _, _, -, -, -, -, ⟨-, rfl⟩ | ⟨-, _, -, rfl⟩⟩ | rfl
  · exact .inr ⟨hp, rfl⟩
  · exact .inl ⟨rfl, rfl⟩
  · exact .inr ⟨hp, rfl⟩

theorem block_pay_frame (hi : i = .enc len ∨ i = .dec len) (hp : s.PHASE = .pay)
    (h : exec i s = .next t) :
    AnswersOr s t (t =
      { s with
        A := t.A, B := t.B, RXCNT := t.RXCNT, rnd := t.rnd, PHASE := t.PHASE, FAULT := t.FAULT
        host := { s.host with cmd := t.host.cmd } }) := by
  obtain ⟨entered, hentered, e⟩ := exec_blockByte hi hp
  rw [e] at h
  rcases hentered with rfl | rfl
  · exact recvByte_blockByte_frame encEntry_frame hp h
  · exact recvByte_blockByte_frame decEntry_frame hp h

theorem block_round_frame (hp : s.PHASE = .enRun ∨ s.PHASE = .deRun) (h : exec i s = .next t) :
    RoundFrame s t := by
  rcases hp with hp | hp
  · exact enRunStep_frame (by simp [hp]) ((exec_enRun i hp).symm.trans h)
  · exact deRunStep_frame (by simp [hp]) ((exec_deRun i hp).symm.trans h)

/-- The frame of an ENC or DEC, from the frames of its phases. -/
theorem block_frame (hi : i = .enc len ∨ i = .dec len) (hinit : s.PHASE ≠ .kxInit)
    (hmix : s.PHASE ≠ .kxMix) (h : exec i s = .next t) : BlockFrame s t := by
  have hidle := fun hp => blockHeader_frame hp ((exec_blockHeader hi hp).symm.trans h)
  have hdrain := fun hp => (exec_drain i hp).symm.trans h
  constructor
  case idle => exact fun hp => (hidle hp).goesOn
  case pay => exact fun hp => (block_pay_frame hi hp h).goesOn
  case drain => exact fun hp => recvByte_drainByte_frame (hdrain hp)
  case rounds => exact fun hp => (block_round_frame hp h).goesOn
  case resp => exact fun hp => respStep_frame ((exec_resp i hp).symm.trans h)
  case answer =>
    intro hresp ht
    cases hp : s.PHASE
    case idle => exact (hidle hp).answer ht
    case pay => exact (block_pay_frame hi hp h).answer ht
    case drain => exact recvByte_drainByte_answer hresp (hdrain hp) ht
    case kxInit => exact absurd hp hinit
    case kxMix => exact absurd hp hmix
    case enRun => exact (block_round_frame (.inl hp) h).answer ht
    case deRun => exact (block_round_frame (.inr hp) h).answer ht
    case resp => exact absurd hp hresp

/-- No phase of an ENC or DEC writes S or KEYED (R162). -/
theorem BlockFrame.schedule (h : BlockFrame s t) (hinit : s.PHASE ≠ .kxInit)
    (hmix : s.PHASE ≠ .kxMix) : t.S = s.S ∧ t.KEYED = s.KEYED := by
  have hkept : ∀ {u : State}, t = u → u.S = s.S → u.KEYED = s.KEYED →
      t.S = s.S ∧ t.KEYED = s.KEYED := by
    rintro u rfl hS hK
    exact ⟨hS, hK⟩
  by_cases hresp : s.PHASE = .resp
  · exact hkept (h.resp hresp) rfl rfl
  by_cases ht : t.PHASE = .resp
  · exact hkept (h.answer hresp ht) rfl rfl
  cases hp : s.PHASE
  case idle => exact hkept (h.idle hp ht) rfl rfl
  case pay => exact hkept (h.pay hp ht) rfl rfl
  case drain => exact hkept (h.drain hp ht) rfl rfl
  case kxInit => exact absurd hp hinit
  case kxMix => exact absurd hp hmix
  case enRun => exact hkept (h.rounds (.inl hp) ht) rfl rfl
  case deRun => exact hkept (h.rounds (.inr hp) ht) rfl rfl
  case resp => exact absurd hp hresp

/-- Settles O49: the frame of each phase, and the streams and the marks in IDLE and after it. -/
theorem encAndDecFrame : Obligations.EncAndDecFrame := by
  intro len i s t hi hinit hmix h
  have hframe := block_frame hi hinit hmix h
  obtain ⟨hS, hK⟩ := hframe.schedule hinit hmix
  refine ⟨hframe.idle, hframe.pay, hframe.drain, hframe.rounds, hframe.answer, hframe.resp, hS, hK,
    ?_⟩
  by_cases hp : s.PHASE = .idle
  · have hheader := (exec_blockHeader hi hp).symm.trans h
    have hhost := blockHeader_host hheader
    refine ⟨.inl (by rw [hhost]), .inl (by rw [hhost]), ?_⟩
    rcases blockHeader_fault hheader with hkept | ⟨hfault, hkeyed⟩
    · exact .inl hkept
    · exact .inr (.inr ⟨hfault, hp, hkeyed⟩)
  · obtain ⟨hcmd, hgot, hfault⟩ := block_streamFrame hi hp h
    exact ⟨hcmd, hgot, hfault.imp_right .inl⟩

end Sys2Proof.Machine
end

section
/-! PROOFS. The run of a whole ENC or DEC frame (R150, R156, R209), phase by phase, and what its
answer depends on (R162). -/

namespace Sys2Proof.Machine

variable {s t : State} {ab ab' : Word × Word} {P rest : List Byte} {n : Nat}

/-! ### The response -/

/-- s with the response st, data loaded and n of its bytes taken (R206). -/
def State.respAt (s : State) (st : Byte) (data : List Byte) (n : Nat) : State :=
  { respond st data s with
    TXCNT := some n
    PHASE := if n = data.length + 1 then .idle else .resp
    host := { s.host with got := s.host.got ++ (st :: data).take n } }

theorem respAt_zero (s : State) (st : Byte) (data : List Byte) :
    s.respAt st data 0 = respond st data s := by
  rw [State.respAt, if_neg (by omega), List.take_zero, List.append_nil]
  rfl

/-- Byte n of the response frame: ST, then the data (R88). -/
theorem responseByte_respAt {st : Byte} {data : List Byte} (hn : n < (st :: data).length) :
    responseByte (s.respAt st data n) n = some (st :: data)[n] := by
  cases n with
  | zero => rfl
  | succ n =>
    have hn' : n < data.length := by simpa using hn
    have hentry := entry_respond_DATA_of_lt (s := s) (st := st) hn'
    rw [List.getElem?_eq_getElem hn'] at hentry
    exact hentry

/-- A step in RESP with a host that takes (R206). -/
theorem step_respAt {st : Byte} {data : List Byte} (hq : s.Quiet) (ht : s.host.takes = true)
    (hn : n < data.length + 1) :
    step (s.respAt st data n) = .next (s.respAt st data (n + 1)) := by
  have hq' : (s.respAt st data n).Quiet := hq
  have hp : (s.respAt st data n).PHASE = .resp := if_neg hn.ne
  have ht' : hostTakes (s.respAt st data n) = true := by
    rw [hostTakes, hq'.moves]
    exact ht
  have hbyte := responseByte_respAt (s := s) (st := st) (data := data) (n := n) hn
  have hstep := respStep_of_values (m := data.length) ht' rfl hbyte rfl
  have hgot : s.host.got ++ (st :: data).take n ++ [(st :: data)[n]] =
      s.host.got ++ (st :: data).take (n + 1) := by
    rw [List.append_assoc, List.take_concat_get']
  refine hq'.step_eq (((coreStep_resp hp).trans hstep).trans ?_) hq.moves
  simp only [State.respAt, sendByte, hgot, Nat.add_right_cancel_iff]

/-- s after the whole response st, data: IDLE again, and the host has the bytes (R206, R240). -/
def State.answered (s : State) (st : Byte) (data : List Byte) : State :=
  { respond st data s with
    TXCNT := some (data.length + 1)
    PHASE := .idle
    host := { s.host with got := s.host.got ++ st :: data } }

theorem respAt_last (s : State) (st : Byte) (data : List Byte) :
    s.respAt st data (data.length + 1) = s.answered st data := by
  rw [State.respAt, if_pos rfl, List.take_of_length_le (List.length_cons ..).le]
  rfl

/-- The response frame, its bytes taken one a step. -/
theorem runs_respond {st : Byte} {data : List Byte} (hq : s.Quiet) (ht : s.host.takes = true) :
    Runs (1 + data.length) (respond st data s) (s.answered st data) := by
  have hrun : ∀ n, n ≤ data.length + 1 → Runs n (s.respAt st data 0) (s.respAt st data n) := by
    intro n
    induction n with
    | zero => exact fun _ => rfl
    | succ n ih => exact fun hn => (ih (by omega)).trans (.single (step_respAt hq ht hn))
  rw [Nat.add_comm, ← respAt_zero, ← respAt_last]
  exact hrun _ le_rfl

/-! ### The rounds -/

theorem coreStep_enRun (hp : s.PHASE = .enRun) : coreStep s = enRunStep s := by
  simp [coreStep, byPhase, hp]

theorem coreStep_deRun (hp : s.PHASE = .deRun) : coreStep s = deRunStep s := by
  simp [coreStep, byPhase, hp]

/-- s in EN_RUN before round n, with ab in A and B (R154). -/
def State.encAt (s : State) (ab : Word × Word) (n : Nat) : State :=
  { s with A := some ab.1, B := some ab.2, rnd := some n, PHASE := .enRun }

/-- s in DE_RUN before round n, with ab in A and B (R158). -/
def State.decAt (s : State) (ab : Word × Word) (n : Nat) : State :=
  { s with A := some ab.1, B := some ab.2, rnd := some n, PHASE := .deRun }

theorem step_encAt (hq : s.Quiet) (hab : encRound s.cfg s.S n ab = some ab') :
    step (s.encAt ab n) = .next
      (if n = s.cfg.r then finishBlock s ab' else s.encAt ab' (n + 1)) := by
  have hq' : (s.encAt ab n).Quiet := hq
  have hstep := enRunStep_of_values (s := s.encAt ab n) rfl rfl rfl hab
  refine hq'.step_eq ((coreStep_enRun rfl).trans hstep) ?_
  split <;> exact hq.moves

/-- The rounds before the last. -/
theorem runs_encRounds (hq : s.Quiet) (hn : n < s.cfg.r)
    (hab : encRounds s.cfg s.S n ab = some ab') :
    Runs n (s.encAt ab 1) (s.encAt ab' (n + 1)) := by
  induction n generalizing ab' with
  | zero =>
    obtain rfl := Option.some.inj hab
    rfl
  | succ n ih =>
    obtain ⟨mid, hmid, hround⟩ := Option.bind_eq_some_iff.1 hab
    have hstep := step_encAt hq hround
    rw [if_neg hn.ne] at hstep
    exact (ih (by omega) hmid).trans (.single hstep)

/-- All rounds of an ENC, and its finish (R154, R155). -/
theorem runs_encAt (hq : s.Quiet) (hr : s.cfg.r ≠ 0)
    (hab : encRounds s.cfg s.S s.cfg.r ab = some ab') :
    Runs s.cfg.r (s.encAt ab 1) (finishBlock s ab') := by
  obtain ⟨n, hn⟩ := Nat.exists_eq_add_one_of_ne_zero hr
  rw [hn] at hab ⊢
  obtain ⟨mid, hmid, hround⟩ := Option.bind_eq_some_iff.1 hab
  have hstep := step_encAt hq hround
  rw [if_pos hn.symm] at hstep
  exact (runs_encRounds hq (by omega) hmid).trans (.single hstep)

theorem step_decAt (hq : s.Quiet) (hS : FullSchedule s.cfg s.S)
    (hab : decRound s.cfg s.S (n + 1) ab = some ab') :
    ∃ out, postWhiten s.cfg s.S ab' = some out ∧ step (s.decAt ab (n + 1)) = .next
      (if n = 0 then finishBlock s out else s.decAt ab' n) := by
  have hq' : (s.decAt ab (n + 1)).Quiet := hq
  obtain ⟨out, hout, -⟩ := postWhiten_spec (cfg := s.cfg) (ab := ab') hS.valued
    (hS.length ▸ two_le_t _)
  have hstep := deRunStep_of_values (s := s.decAt ab (n + 1)) rfl rfl rfl hab hout
  refine ⟨out, hout, hq'.step_eq ((coreStep_deRun rfl).trans hstep) ?_⟩
  split <;> exact hq.moves

/-- The rounds n + 1, ..., 1 of a DEC, and its finish (R158, R159). -/
theorem runs_decAt {out : Word × Word} (hq : s.Quiet) (hS : FullSchedule s.cfg s.S)
    (hab : decRounds s.cfg s.S (n + 1) ab = some ab') (hout : postWhiten s.cfg s.S ab' = some out) :
    Runs (n + 1) (s.decAt ab (n + 1)) (finishBlock s out) := by
  induction n generalizing ab with
  | zero =>
    obtain ⟨mid, hround, hmid⟩ := Option.bind_eq_some_iff.1 hab
    obtain rfl := Option.some.inj hmid
    obtain ⟨out', hout', hstep⟩ := step_decAt hq hS hround
    obtain rfl := Option.some.inj (hout.symm.trans hout')
    exact .single hstep
  | succ n ih =>
    obtain ⟨mid, hround, hmid⟩ := Option.bind_eq_some_iff.1 hab
    obtain ⟨_, -, hstep⟩ := step_decAt hq hS hround
    exact .head hstep (ih hmid)

/-! ### ENC and DEC as block commands -/

/-- A core that steps, with a full schedule in S and the block P in A and B (R153, R157). -/
structure State.HoldsBlock (s : State) (P : List Byte) : Prop where
  quiet : s.Quiet
  schedule : FullSchedule s.cfg s.S
  regA : s.A = some (blockToWords s.cfg.u P).1
  regB : s.B = some (blockToWords s.cfg.u P).2

/-- What the run of a frame needs of a command that transforms a block: its header decode and its
payload step, and that from its entry r internal steps lead to the answer with the block the cipher
gives. -/
structure BlockCommand (mk : Nat → Instr) (entered : State → Word × Word → Option State)
    (cipher : Config → List (Option Word) → List Byte → Option (List Byte)) : Prop where
  len : ∀ n, (mk n).len = n
  exec : ∀ n s, exec (mk n) s = byPhase (blockHeader n) (recvByte (blockByte entered n)) s
  transforms : ∀ {s P}, State.HoldsBlock s P → ∃ t ab,
    entered s (blockToWords s.cfg.u P) = some t ∧ t.host = s.host ∧
      cipher s.cfg s.S P = some (wordsToBlock s.cfg.u ab.1 ab.2) ∧
      Runs s.cfg.r t (finishBlock s ab)

/-- ENC (R150): the pre-whitening, then the rounds, if any. -/
theorem blockCommand_enc : BlockCommand .enc encEntry encrypt where
  len _ := rfl
  exec := exec_enc
  transforms := by
    rintro s P ⟨hq, hS, -, -⟩
    obtain ⟨ab, hpre, fab, -⟩ := postWhiten_preWhiten hS (blockFits_blockToWords hq.legal P)
    obtain ⟨ab', henc, -⟩ := decRounds_encRounds hS le_rfl fab
    have hcipher := encrypt_eq_some.2 ⟨ab, ab', hpre, henc, rfl⟩
    have hentry := encEntry_of_values hpre
    by_cases hr : s.cfg.r = 0
    · rw [if_pos hr] at hentry
      rw [hr] at henc ⊢
      obtain rfl := Option.some.inj henc
      exact ⟨_, ab, hentry, rfl, hcipher, rfl⟩
    · rw [if_neg hr] at hentry
      exact ⟨_, ab', hentry, rfl, hcipher, runs_encAt hq hr henc⟩

/-- DEC (R156): the rounds, if any, then the post-whitening. -/
theorem blockCommand_dec : BlockCommand .dec decEntry decrypt where
  len _ := rfl
  exec := exec_dec
  transforms := by
    rintro s P ⟨hq, hS, hA, hB⟩
    obtain ⟨ab, hdec, fab, -⟩ := encRounds_decRounds hS le_rfl (blockFits_blockToWords hq.legal P)
    obtain ⟨ab', hpost, -⟩ := preWhiten_postWhiten hS fab
    have hcipher := decrypt_eq_some.2 ⟨ab, ab', hdec, hpost, rfl⟩
    by_cases hr : s.cfg.r = 0
    · rw [hr] at hdec ⊢
      obtain rfl := Option.some.inj hdec
      exact ⟨_, ab', decEntry_of_noRounds hr hpost, rfl, hcipher, rfl⟩
    · have hat : s.decAt (blockToWords s.cfg.u P) s.cfg.r =
          { s with rnd := some s.cfg.r, PHASE := .deRun } := by
        rw [State.decAt, ← hA, ← hB]
      obtain ⟨n, hn⟩ := Nat.exists_eq_add_one_of_ne_zero hr
      rw [hn] at hdec
      have hrun := runs_decAt hq hS hdec hpost
      rw [← hn, hat] at hrun
      exact ⟨_, ab', decEntry_of_rounds hr, rfl, hcipher, hrun⟩

section
variable {mk : Nat → Instr} {entered : State → Word × Word → Option State}
  {cipher : Config → List (Option Word) → List Byte → Option (List Byte)}

/-! ### Block bytes -/

/-- A core that steps, in PAY, with the command i in CW (R203). -/
structure State.Receives (s : State) (i : Instr) : Prop where
  quiet : s.Quiet
  pay : s.PHASE = .pay
  command : currentInstr s = some i

/-- A step in PAY of a block command takes a block byte. -/
theorem BlockCommand.coreStep_blockAt {len : Nat} {cmd : List Byte}
    (hcmd : BlockCommand mk entered cipher) (hs : s.Receives (mk len)) :
    coreStep (s.blockAt ab n cmd) = recvByte (blockByte entered len) (s.blockAt ab n cmd) := by
  have hp : (s.blockAt ab n cmd).PHASE = .pay := hs.pay
  have hc : currentInstr (s.blockAt ab n cmd) = some (mk len) := hs.command
  rw [coreStep, byPhase_pay hp, runCommandWord_of_currentInstr hc, hcmd.exec, byPhase_pay hp]

/-- A block byte before the last goes to its lane (R184). -/
theorem BlockCommand.step_blockAt {v : Byte} (hcmd : BlockCommand mk entered cipher)
    (hs : s.Receives (mk s.cfg.blockBytes)) (hmore : P.length + 1 < s.cfg.blockBytes) :
    step (s.blockAt (blockToWords s.cfg.u P) P.length (v :: rest)) =
      .next (s.blockAt (blockToWords s.cfg.u (P ++ [v])) (P.length + 1) rest) := by
  have hq : (s.blockAt (blockToWords s.cfg.u P) P.length (v :: rest)).Quiet := hs.quiet
  have hplace := placeBlockByte_blockToWords (u := s.cfg.u) (Nat.lt_of_succ_lt hmore) v
  have hbyte := blockByte_of_values (s := s.blockAt (blockToWords s.cfg.u P) P.length rest)
    (entered := entered) (len := s.cfg.blockBytes) rfl rfl rfl hplace
  rw [if_neg hmore.ne] at hbyte
  refine hq.step_eq ?_ hq.moves
  rw [hcmd.coreStep_blockAt hs, recvByte_offered hq.hostOffers rfl]
  exact hbyte

/-- The last block byte is followed by the entry to the rounds (R203). -/
theorem BlockCommand.step_blockAt_last {v : Byte} (hcmd : BlockCommand mk entered cipher)
    (hs : s.Receives (mk s.cfg.blockBytes)) (hlast : P.length + 1 = s.cfg.blockBytes)
    (ht : entered (s.blockAt (blockToWords s.cfg.u (P ++ [v])) s.cfg.blockBytes rest)
      (blockToWords s.cfg.u (P ++ [v])) = some t) (hm : t.host.moves = []) :
    step (s.blockAt (blockToWords s.cfg.u P) P.length (v :: rest)) = .next t := by
  have hq : (s.blockAt (blockToWords s.cfg.u P) P.length (v :: rest)).Quiet := hs.quiet
  have hplace := placeBlockByte_blockToWords (u := s.cfg.u) (P := P) hlast.le v
  refine hq.step_eq ?_ hm
  rw [hcmd.coreStep_blockAt hs, ← hlast]
  rw [← hlast] at ht
  exact recvByte_blockByte_last rfl rfl rfl ⟨hq.hostOffers, rfl⟩ hplace ht

/-- The rest P' of the block, its bytes taken one a step. -/
theorem BlockCommand.runs_blockBytes {P' : List Byte} (hcmd : BlockCommand mk entered cipher)
    (hs : s.Receives (mk s.cfg.blockBytes)) (hne : P' ≠ [])
    (hlen : P.length + P'.length = s.cfg.blockBytes)
    (ht : entered (s.blockAt (blockToWords s.cfg.u (P ++ P')) s.cfg.blockBytes rest)
      (blockToWords s.cfg.u (P ++ P')) = some t) (hm : t.host.moves = []) :
    Runs P'.length (s.blockAt (blockToWords s.cfg.u P) P.length (P' ++ rest)) t := by
  induction P' generalizing P with
  | nil => exact absurd rfl hne
  | cons v P' ih =>
    rw [List.length_cons] at hlen
    cases P' with
    | nil => exact .single (hcmd.step_blockAt_last hs hlen ht hm)
    | cons w P' =>
      rw [List.length_cons] at hlen
      have hstep := hcmd.step_blockAt (v := v) (rest := w :: P' ++ rest) (P := P) hs (by omega)
      have hrest := ih (P := P ++ [v]) (List.cons_ne_nil w P') (by simp; omega)
        (by rw [List.append_assoc]; exact ht)
      rw [List.length_append] at hrest
      exact .head hstep hrest

/-! ### The whole frame -/

theorem BlockCommand.wellFormed (hcmd : BlockCommand mk entered cipher)
    (hlegal : s.cfg.legal = true) : (mk s.cfg.blockBytes).wellFormed := by
  have hu := legal_u hlegal
  rw [Instr.wellFormed, hcmd.len, Config.blockBytes]
  omega

/-- s in PAY of the command i, its header taken (R202). -/
def State.inPay (s : State) (i : Instr) : State :=
  { s.headerAt ((encode i).map some) 0 [] with PHASE := .pay }

/-- The header of a block command on a keyed core: PAY, with A and B cleared (R152, R184). -/
theorem BlockCommand.runs_header (hcmd : BlockCommand mk entered cipher)
    (hkeyed : s.KEYED = true) (hb : s.boundary (encode (mk s.cfg.blockBytes) ++ rest)) :
    Runs 4 s ((s.inPay (mk s.cfg.blockBytes)).blockAt (blockToWords s.cfg.u []) 0 rest) := by
  have hq := State.boundary.quiet hb
  have ⟨_, _, _, hp, _⟩ := hb
  refine Machine.runs_header (hcmd.wellFormed hq.legal) hb ?_ hq.moves
  have hheader := blockHeader_of_eq
    (s.headerAt ((encode (mk s.cfg.blockBytes)).map some) 0 rest)
  rw [if_neg (by simp [State.headerAt, hkeyed])] at hheader
  rw [hcmd.exec, byPhase_idle (by exact hp), blockToWords_nil]
  exact hheader

/-- A whole frame of a block command on a keyed core (R150, R156, R209). -/
theorem BlockCommand.runs_frame (hcmd : BlockCommand mk entered cipher)
    (hlen : P.length = s.cfg.blockBytes) (hkeyed : s.KEYED = true)
    (hb : s.boundary (encode (mk s.cfg.blockBytes) ++ P ++ rest)) :
    ∃ t block, Runs (4 + s.cfg.blockBytes + s.cfg.r + (1 + s.cfg.blockBytes)) s t ∧
      cipher s.cfg s.S P = some block ∧ s.after t (stOK :: block) rest ∧ t.S = s.S ∧
      t.KEYED = true := by
  have hq := State.boundary.quiet hb
  have ⟨hinv, hf, hr, _, _, _, htakes, _⟩ := hb
  have hbase := hinv.base
  rw [List.append_assoc] at hb
  have hheader := hcmd.runs_header hkeyed hb
  have hpay : (s.inPay (mk s.cfg.blockBytes)).Receives (mk s.cfg.blockBytes) :=
    ⟨hq, rfl, currentInstr_of_encode (hcmd.wellFormed hq.legal) rfl⟩
  have hloaded : ((s.inPay (mk s.cfg.blockBytes)).blockAt (blockToWords s.cfg.u P)
      s.cfg.blockBytes rest).HoldsBlock P :=
    ⟨hq, ⟨hbase.lenS, hbase.keyed hkeyed, hbase.fitsS⟩, rfl, rfl⟩
  obtain ⟨t, ab, hentry, hhost, hcipher, hrounds⟩ := hcmd.transforms hloaded
  have hne : P ≠ [] := by
    rintro rfl
    exact (blockBytes_pos hq.legal).ne hlen
  have hbytes := hcmd.runs_blockBytes (P := []) hpay hne ((Nat.zero_add _).trans hlen) hentry
    ((congrArg HostAgent.moves hhost).trans hq.moves)
  have hanswer := runs_respond (st := stOK) (data := wordsToBlock s.cfg.u ab.1 ab.2) hloaded.quiet
    htakes
  rw [hlen] at hbytes
  rw [wordsToBlock_length] at hanswer
  exact ⟨_, _, ((hheader.trans hbytes).trans hrounds).trans hanswer, hcipher,
    ⟨rfl, rfl, hf, hr, rfl, rfl, workingEmpty_respond ..⟩, rfl, hkeyed⟩

/-- What the host gets from a frame is OK and the cipher's block. -/
theorem BlockCommand.answer_of_runs (hcmd : BlockCommand mk entered cipher)
    (hlen : P.length = s.cfg.blockBytes) (hkeyed : s.KEYED = true)
    (hb : s.boundary (encode (mk s.cfg.blockBytes) ++ P ++ rest))
    (ht : Runs (4 + s.cfg.blockBytes + s.cfg.r + (1 + s.cfg.blockBytes)) s t) :
    ∃ block, cipher s.cfg s.S P = some block ∧
      t.host.got.drop s.host.got.length = stOK :: block := by
  obtain ⟨t', block, hrun, hcipher, ⟨-, -, -, -, -, hhost, -⟩, -⟩ :=
    hcmd.runs_frame hlen hkeyed hb
  obtain rfl := ht.unique hrun
  refine ⟨block, hcipher, ?_⟩
  rw [hhost]
  exact List.drop_left

/-- Two cores with one configuration and one schedule answer a block alike (R162). -/
theorem BlockCommand.answers_alike {s' t' : State} {rest' : List Byte}
    (hcmd : BlockCommand mk entered cipher) (hlen : P.length = s.cfg.blockBytes)
    (hcfg : s'.cfg = s.cfg) (hS : s'.S = s.S) (hkeyed : s.KEYED = true) (hkeyed' : s'.KEYED = true)
    (hb : s.boundary (encode (mk s.cfg.blockBytes) ++ P ++ rest))
    (hb' : s'.boundary (encode (mk s.cfg.blockBytes) ++ P ++ rest'))
    (ht : Runs (4 + s.cfg.blockBytes + s.cfg.r + (1 + s.cfg.blockBytes)) s t)
    (ht' : Runs (4 + s.cfg.blockBytes + s.cfg.r + (1 + s.cfg.blockBytes)) s' t') :
    t.host.got.drop s.host.got.length = t'.host.got.drop s'.host.got.length := by
  obtain ⟨block, hblock, hgot⟩ := hcmd.answer_of_runs hlen hkeyed hb ht
  rw [← hcfg] at hlen hb' ht'
  obtain ⟨block', hblock', hgot'⟩ := hcmd.answer_of_runs hlen hkeyed' hb' ht'
  rw [hcfg, hS, hblock] at hblock'
  rw [hgot, hgot', Option.some.inj hblock']

end

/-- Settles O55: ENC and DEC are block commands, and `BlockCommand.runs_frame` is their run. -/
theorem blockFrameGivesTheCipherBlock : Obligations.BlockFrameGivesTheCipherBlock := by
  intro s P rest hlen hkeyed
  constructor
  · exact blockCommand_enc.runs_frame hlen hkeyed
  · exact blockCommand_dec.runs_frame hlen hkeyed

/-- Settles O58: either command answers with the cipher's block, which reads the configuration,
S and the block alone. -/
theorem cipherDependsOnScheduleAndBlockOnly : Obligations.CipherDependsOnScheduleAndBlockOnly := by
  intro s s' t t' i P rest rest' hi hlen hcfg hS hkeyed hkeyed' hb hb' ht ht'
  rcases hi with rfl | rfl
  · exact blockCommand_enc.answers_alike hlen hcfg hS hkeyed hkeyed' hb hb' ht ht'
  · exact blockCommand_dec.answers_alike hlen hcfg hS hkeyed hkeyed' hb hb' ht ht'

end Sys2Proof.Machine
end

section
/-! PROOFS. The marshaller's statements (43_marshaller.md): its laws (R185), and the block loader of
PAY, byte by byte (R184, R203). -/

namespace Sys2Proof.Machine

variable {u : Nat} {P : List Byte} {s : State} {n : Nat}

/-! ### The laws of the marshaller -/

/-- Settles O33: each law is a lemma about the words or the block. -/
theorem marshallerLaws : Obligations.MarshallerLaws := by
  intro u
  refine ⟨fun _ => leDecode_leEncode, ?_, fun _ => wordsToBlock_blockToWords, wordsToBlock_length u⟩
  rintro d rfl
  exact leEncode_leDecode d

/-! ### The block loader -/

/-- The block loader over all bytes of a block or of the start of one: the bytes before the last give
the words read so far, and the last goes to the lane after them (R184). -/
theorem foldl_placeBlockByte (hlen : P.length ≤ 2 * u) :
    P.zipIdx.foldl (fun ab vn => placeBlockByte u ab vn.2 vn.1) (0, 0) = blockToWords u P := by
  induction P using List.reverseRecOn with
  | nil => exact (blockToWords_nil u).symm
  | append_singleton P v ih =>
    rw [List.length_append, List.length_singleton] at hlen
    rw [List.zipIdx_append, List.foldl_append, ih (Nat.le_of_succ_le hlen), List.zipIdx_singleton,
      Nat.zero_add]
    exact placeBlockByte_blockToWords hlen v

/-- Settles O35: the loader's words for a whole block. -/
theorem blockLoaderGivesBlockToWords : Obligations.BlockLoaderGivesBlockToWords :=
  fun _ _ hlen => foldl_placeBlockByte hlen.le

/-- A payload byte before the last is placed and counted, and the command stays in PAY (R203). -/
theorem recvByte_blockByte_more {entered : State → Word × Word → Option State} {len : Nat}
    {a b : Word} {ab : Word × Word} {v : Byte} {rest : List Byte} (hn : s.RXCNT = some n)
    (hA : s.A = some a) (hB : s.B = some b) (ho : s.offered v rest)
    (hab : placeBlockByte s.cfg.u (a, b) n v = ab) (hmore : n + 1 ≠ len) :
    recvByte (blockByte entered len) s = .next (s.blockAt ab (n + 1) rest) := by
  obtain ⟨hoffers, hcmd⟩ := ho
  have hbyte := blockByte_of_values (s := s.received rest) (entered := entered) (len := len)
    hn hA hB hab
  rw [recvByte_offered hoffers hcmd, hbyte, if_neg hmore, State.blockAt]

/-- Byte n of a block is one of A's bytes for n < u (R184). -/
theorem placeBlockByte_of_lt {ab : Word × Word} {v : Byte} (hlow : n < u) :
    placeBlockByte u ab n v = (setByteLane ab.1 n v, ab.2) := if_pos hlow

/-- Byte n of a block is one of B's bytes from n = u on (R184). -/
theorem placeBlockByte_of_le {ab : Word × Word} {v : Byte} (hhigh : u ≤ n) :
    placeBlockByte u ab n v = (ab.1, setByteLane ab.2 (n - u) v) := if_neg hhigh.not_gt

/-- Settles O26, by whether the lane is one of A or of B; the other word is written with what it
held. -/
theorem blockByteGoesToItsLane : Obligations.BlockByteGoesToItsLane := by
  intro len n i s v rest a b hi hp hn hA hB ho hmore
  obtain ⟨entered, -, hexec⟩ := exec_blockByte hi hp
  rw [hexec]
  constructor
  · intro hlow
    rw [recvByte_blockByte_more hn hA hB ho (placeBlockByte_of_lt hlow) hmore]
    simp [State.blockAt, hB]
  · intro hhigh
    rw [recvByte_blockByte_more hn hA hB ho (placeBlockByte_of_le hhigh) hmore]
    simp [State.blockAt, hA]

end Sys2Proof.Machine
end

section
/-! PROOFS. The step of a running core is its command's step in the phase it is in (R201 to R208);
which steps take a command byte, and what a step does when the host gives or takes none (R207, R211,
R236). -/

namespace Sys2Proof.Machine

variable {s t : State} {i : Instr}

/-! ### The step around exec -/

theorem decodeWord_of_decode {b0 b1 b2 b3 : Byte} {rest : List Byte}
    (h : decode (b0 :: b1 :: b2 :: b3 :: rest) = .ok (i, rest)) :
    decodeWord (wordOfBytes b0 b1 b2 b3) = .ok i := by
  rw [decode] at h
  split at h
  · rename_i hd
    cases h
    exact hd
  · cases h

/-- In PAY the core's step is that of the command in CW (R203). -/
theorem coreStep_pay (hp : s.PHASE = .pay) (hc : currentInstr s = some i) :
    coreStep s = exec i s := by
  rw [coreStep, byPhase_pay hp, runCommandWord_of_currentInstr hc]

theorem coreStep_drain (hp : s.PHASE = .drain) : coreStep s = recvByte drainByte s := by
  simp [coreStep, byPhase, hp]

/-- Settles O6, phase by phase. -/
theorem stepRunsTheDecodedCommand : Obligations.StepRunsTheDecodedCommand := by
  refine ⟨?header, ?payload, ?later⟩
  case header =>
    intro s b0 b1 b2 v rest i hrun hp hcnt hlen h0 h1 h2 ho hd
    have hc : currentInstr (s.headerDone v rest) = some i := currentInstr_eq_some.2
      ⟨_, commandWord_headerDone hlen h0 h1 h2 v rest, decodeWord_of_decode hd⟩
    rw [step_fourthHeaderByte hrun hp hcnt ho, runCommandWord_of_currentInstr hc]
    rfl
  case payload =>
    intro s cw i ⟨hf, hr, hl, hm⟩ hp hcw hd
    rw [step_of_running hf hr hl hm, coreStep_pay hp (currentInstr_eq_some.2 ⟨cw, hcw, hd⟩)]
  case later =>
    intro s i ⟨hf, hr, hl, hm⟩ hidle hpay
    rw [step_of_running hf hr hl hm, exec_eq_coreStep i hidle hpay]

/-! ### RESP -/

/-- Settles O40: byte 0 is ST, and byte q + 1 is DATA[q]. -/
theorem responseBytesAreTakenInOrder : Obligations.ResponseBytesAreTakenInOrder := by
  intro i n m s v hp hn hm ht hst hdata
  have hbyte : responseByte s n = some v := by
    cases n with
    | zero => exact hst rfl
    | succ q => exact hdata q rfl
  rw [exec_resp i hp, respStep_of_values ht hn hbyte hm]
  rfl

theorem respStep_wait (ht : hostTakes s = false) : respStep s = .next s := by
  simp [respStep, ht]

/-! ### The phases that take no command byte -/

theorem ne_of_busy {p : Phase} (h : p.busy) : p ≠ .idle ∧ p ≠ .pay ∧ p ≠ .drain := by
  rcases h with rfl | rfl | rfl | rfl | rfl <;> simp

/-- In a busy phase the core's step is that of any command. -/
theorem exec_busy (i : Instr) (hbusy : s.PHASE.busy) : exec i s = coreStep s := by
  obtain ⟨hidle, hpay, -⟩ := ne_of_busy hbusy
  exact exec_eq_coreStep i hidle hpay

/-- Settles O41: a reset leaves the host's bytes, and of the later phases only DRAIN takes one. -/
theorem noCommandByteIsTakenWhileBusy : Obligations.NoCommandByteIsTakenWhileBusy := by
  intro s t hbusy h
  obtain ⟨-, -, ⟨-, rfl⟩ | ⟨-, ⟨-, rfl⟩ | ⟨-, u, hu, rfl⟩⟩⟩ := step_cases h
  · rfl
  · rfl
  · obtain ⟨-, hpay, hdrain⟩ := ne_of_busy hbusy
    rw [← exec_busy (.keyx 0) hbusy] at hu
    rcases (keyx_streamFrame hu).cmd with hcmd | ⟨hp | hp, -⟩
    · exact hcmd
    · exact absurd hp hpay
    · exact absurd hp hdrain

/-! ### The phases that take command bytes -/

/-- The core takes its next byte from the command stream (R207): in IDLE, in PAY of a command and
in DRAIN. -/
def State.Receiving (s : State) : Prop :=
  s.PHASE = .idle ∨ (s.PHASE = .pay ∧ ∃ i, currentInstr s = some i) ∨ s.PHASE = .drain

/-- The header decode leaves the host as it is. -/
theorem exec_idle_host (hp : s.PHASE = .idle) (h : exec i s = .next t) : t.host = s.host := by
  cases i with
  | keyx len =>
    rw [exec_keyx, byPhase_idle hp] at h
    exact (keyxHeader_hostKept h).1
  | enc len => exact blockHeader_host ((exec_blockHeader (.inl rfl) hp).symm.trans h)
  | dec len => exact blockHeader_host ((exec_blockHeader (.inr rfl) hp).symm.trans h)

theorem headerByte_host {v : Byte} (hp : s.PHASE = .idle) (h : headerByte v s = .next t) :
    t.host = s.host := by
  rcases headerByte_cases v s with ⟨-, e⟩ | ⟨-, e⟩ <;> rw [e] at h
  · obtain rfl := Host.Outcome.next.inj h
    rfl
  · rcases runCommandWord_cases { s with CW := s.CW.set s.HDRCNT (some v), HDRCNT := 0 } with
      ⟨_, i, -, -, e⟩ | ⟨_, -, -, e⟩ | ⟨_, -, -, e⟩ | ⟨-, e⟩ <;> rw [e] at h
    · exact exec_idle_host (s := { s with CW := _, HDRCNT := 0 }) hp h
    all_goals
      obtain rfl := Host.Outcome.next.inj h
      rfl

/-- A step in PAY receives a byte, and what the command does with it leaves the host as it is. -/
theorem exec_pay (i : Instr) (hp : s.PHASE = .pay) : ∃ f : Byte → State → Outcome,
    exec i s = recvByte f s ∧ ∀ {v u t}, f v u = .next t → t.host = u.host := by
  cases i with
  | keyx len =>
    exact ⟨keyxByte len, by rw [exec_keyx, byPhase_pay hp], fun h => (keyxByte_hostKept h).1⟩
  | enc len =>
    exact ⟨blockByte encEntry len, by rw [exec_enc, byPhase_pay hp],
      fun h => (blockByte_hostKept encEntry_hostKept h).1⟩
  | dec len =>
    exact ⟨blockByte decEntry len, by rw [exec_dec, byPhase_pay hp],
      fun h => (blockByte_hostKept decEntry_hostKept h).1⟩

/-- The core's step in these phases receives a byte, and what it does with the byte leaves the host
as it is. -/
theorem State.Receiving.coreStep_eq (hs : s.Receiving) : ∃ f : Byte → State → Outcome,
    coreStep s = recvByte f s ∧
      ∀ {v host t}, f v { s with host := host } = .next t → t.host = host := by
  rcases hs with hp | ⟨hp, i, hc⟩ | hp
  · exact ⟨headerByte, byPhase_idle hp, fun {_ host _} h =>
      headerByte_host (s := { s with host := host }) hp h⟩
  · obtain ⟨f, hf, hhost⟩ := exec_pay i hp
    exact ⟨f, (coreStep_pay hp hc).trans hf, hhost⟩
  · exact ⟨drainByte, coreStep_drain hp, fun h => (drainByte_hostKept h).1⟩

/-- The step waits with no byte offered, or a byte is gone from the command stream after it. -/
theorem State.Receiving.coreStep_cases (hs : s.Receiving) (h : coreStep s = .next t) :
    t = s ∧ (hostOffers s = false ∨ s.host.cmd = []) ∨ ∃ v, s.host.cmd = v :: t.host.cmd := by
  obtain ⟨f, hf, hhost⟩ := hs.coreStep_eq
  rw [hf] at h
  rcases recvByte_cases f s with ⟨hwait, hnone⟩ | ⟨v, rest, hcmd, -, hbyte⟩
  · exact .inl ⟨Host.Outcome.next.inj (h.symm.trans hwait), hnone.symm⟩
  · refine .inr ⟨v, ?_⟩
    rw [hhost (hbyte.symm.trans h)]
    exact hcmd

/-- The core waits for the host: it may receive and no byte is offered, or it responds and the host
does not take (R236). -/
def State.Waits (s : State) : Prop :=
  s.Receiving ∧ (hostOffers s = false ∨ s.host.cmd = []) ∨ s.PHASE = .resp ∧ hostTakes s = false

theorem State.Waits.coreStep_eq (hs : s.Waits) : coreStep s = .next s := by
  rcases hs with ⟨hs, hnone⟩ | ⟨hp, ht⟩
  · obtain ⟨f, hf, -⟩ := hs.coreStep_eq
    rw [hf, recvByte_wait hnone]
  · rw [coreStep_resp hp, respStep_wait ht]

/-- Settles O42, by what the core's step is when the core waits. -/
theorem waitingChangesNoRegister : Obligations.WaitingChangesNoRegister := by
  intro s i ⟨hf, hr, hl, hm⟩ hwait
  have hs : s.Waits := hwait.imp_left <| And.imp_left <| Or.imp_right <| Or.imp_left <|
    And.imp_right fun hc => ⟨i, hc⟩
  rw [step_of_running hf hr hl hm, hs.coreStep_eq, onNext_next]

end Sys2Proof.Machine
end

section
/-! PROOFS. The internal steps (R208), which need nothing of the host, and the states in which the
core stands still (R210, R236). -/

namespace Sys2Proof.Machine

variable {s t : State}

/-! ### Internal steps -/

theorem orNoValue_next (s : State) (o : Option State) : ∃ t, orNoValue s o = .next t := by
  cases o
  · exact ⟨_, rfl⟩
  · exact ⟨_, rfl⟩

/-- What the internal step f does from s to t: it moves on in the phase or to another one, and with
every other host it does the same to the core. -/
structure InternalStep (f : State → Outcome) (s t : State) : Prop where
  progress : t.PHASE ≠ s.PHASE ∨ t.i ≠ s.i ∨ t.k ≠ s.k ∨ t.rnd ≠ s.rnd
  anyHost : ∀ h : HostAgent, f { s with host := h } = .next { t with host := h }

theorem kxInitStep_internal (hp : s.PHASE = .kxInit) (h : kxInitStep s = .next t)
    (hvalue : t.FAULT ≠ some .noValue) : InternalStep kxInitStep s t := by
  rcases kxInitStep_cases h with ⟨n, S, hi, hS, ⟨hmore, rfl⟩ | ⟨hlast, rfl⟩⟩ | rfl
  · refine ⟨.inr (.inl (by simp [hi])), fun host => ?_⟩
    exact (kxInitStep_of_values (s := { s with host := host }) hi hS).trans
      (congrArg _ (if_neg hmore))
  · refine ⟨.inl (by simp [hp]), fun host => ?_⟩
    exact (kxInitStep_of_values (s := { s with host := host }) hi hS).trans
      (congrArg _ (if_pos hlast))
  · exact absurd rfl hvalue

theorem kxMixStep_internal (hp : s.PHASE = .kxMix) (h : kxMixStep s = .next t)
    (hvalue : t.FAULT ≠ some .noValue) : InternalStep kxMixStep s t := by
  rcases kxMixStep_cases h with
    ⟨a, b, i, j, k, m, hA, hB, hi, hj, hk, hm, ⟨hmore, rfl⟩ | ⟨hlast, rfl⟩⟩ | rfl
  · refine ⟨.inr (.inr (.inl (by simp [hk]))), fun host => ?_⟩
    exact (kxMixStep_of_values (s := { s with host := host }) hA hB hi hj hk hm).trans
      (congrArg _ (if_neg hmore))
  · refine ⟨.inl (by simp [hp]), fun host => ?_⟩
    exact (kxMixStep_of_values (s := { s with host := host }) hA hB hi hj hk hm).trans
      (congrArg _ (if_pos hlast))
  · exact absurd rfl hvalue

theorem enRunStep_internal (hp : s.PHASE = .enRun) (h : enRunStep s = .next t)
    (hvalue : t.FAULT ≠ some .noValue) : InternalStep enRunStep s t := by
  rcases enRunStep_cases h with ⟨a, b, n, ab, hA, hB, hn, hab, ⟨hmore, rfl⟩ | ⟨hlast, rfl⟩⟩ | rfl
  · refine ⟨.inr (.inr (.inr (by simp [hn]))), fun host => ?_⟩
    exact (enRunStep_of_values (s := { s with host := host }) hA hB hn hab).trans
      (congrArg _ (if_neg hmore))
  · refine ⟨.inl (by simp [hp]), fun host => ?_⟩
    exact (enRunStep_of_values (s := { s with host := host }) hA hB hn hab).trans
      (congrArg _ (if_pos hlast))
  · exact absurd rfl hvalue

theorem deRunStep_internal (hp : s.PHASE = .deRun) (h : deRunStep s = .next t)
    (hvalue : t.FAULT ≠ some .noValue) : InternalStep deRunStep s t := by
  rcases deRunStep_cases h with
    ⟨a, b, n, ab, hA, hB, hn, hab, ⟨hmore, rfl⟩ | ⟨hlast, ab', hab', rfl⟩⟩ | rfl
  · obtain ⟨m, rfl⟩ := Nat.exists_eq_add_one_of_ne_zero (n := n) (by omega)
    refine ⟨.inr (.inr (.inr (by simp [hn]))), fun host => ?_⟩
    exact deRunStep_of_more (s := { s with host := host }) hA hB hn hmore hab
  · refine ⟨.inl (by simp [hp]), fun host => ?_⟩
    exact (deRunStep_of_values (s := { s with host := host }) hA hB hn hab hab').trans
      (congrArg _ (if_pos hlast))
  · exact absurd rfl hvalue

/-- Each internal phase has its own step, which always answers a next state. -/
theorem coreStep_eq_internal (hp : s.PHASE.internal) : ∃ f : State → Outcome,
    (∀ host : HostAgent, coreStep { s with host := host } = f { s with host := host }) ∧
      (∃ t, f s = .next t) ∧
      ∀ t, f s = .next t → t.FAULT ≠ some .noValue → InternalStep f s t := by
  rcases hp with hp | hp | hp | hp
  · exact ⟨kxInitStep, fun _ => coreStep_kxInit hp, orNoValue_next ..,
      fun _ => kxInitStep_internal hp⟩
  · exact ⟨kxMixStep, fun _ => coreStep_kxMix hp, orNoValue_next ..,
      fun _ => kxMixStep_internal hp⟩
  · exact ⟨enRunStep, fun _ => coreStep_enRun hp, orNoValue_next ..,
      fun _ => enRunStep_internal hp⟩
  · exact ⟨deRunStep, fun _ => coreStep_deRun hp, orNoValue_next ..,
      fun _ => deRunStep_internal hp⟩

/-- Under the invariant the core's step in these phases finds the values it reads. -/
theorem coreStep_internal (hinv : s.Inv) (hp : s.PHASE.internal) :
    ∃ t, coreStep s = .next t ∧ t.FAULT ≠ some .noValue ∧ InternalStep coreStep s t := by
  obtain ⟨f, hf, ⟨t, ht⟩, hinternal⟩ := coreStep_eq_internal hp
  have hcore : coreStep s = .next t := (hf s.host).trans ht
  have hvalue := (coreStep_keeps_inv hinv hcore).noNoValue
  obtain ⟨hprogress, hany⟩ := hinternal t ht hvalue
  exact ⟨t, hcore, hvalue, hprogress, fun host => (hf host).trans (hany host)⟩

/-- It changes the core itself. -/
theorem InternalStep.ne {f : State → Outcome} (h : InternalStep f s t) (host : HostAgent) :
    { t with host := host } ≠ s := by
  rintro rfl
  rcases h.progress with hne | hne | hne | hne <;> exact hne rfl

theorem busy_of_internal {p : Phase} (h : p.internal) : p.busy := by
  rcases h with rfl | rfl | rfl | rfl <;> simp [Phase.busy]

/-- Settles O43: the step of `coreStep_internal`, which sets no mark. -/
theorem internalStepsNeedNoHost : Obligations.InternalStepsNeedNoHost := by
  intro s hinv ⟨hf, hr, hl, _⟩ hp
  obtain ⟨t, ht, hvalue, hinternal⟩ := coreStep_internal hinv hp
  have hexec : exec (.keyx 0) s = .next t := (exec_busy _ (busy_of_internal hp)).trans ht
  obtain ⟨-, hrefused⟩ := exec_sameCore hexec
  have hfault : t.FAULT = s.FAULT := (keyx_streamFrame hexec).FAULT.resolve_right hvalue
  refine ⟨t, hfault.trans hf, hrefused.trans hr, hinternal.ne _, fun host hm => ?_⟩
  rw [step_of_running (s := { s with host := host }) hf hr hl hm, hinternal.anyHost host]
  rfl

/-! ### Standing still -/

/-- In PAY the invariant gives CW a command. -/
theorem State.Inv.receiving_pay (hinv : s.Inv) (hp : s.PHASE = .pay) : s.Receiving := by
  obtain ⟨⟨_, -, ⟨hc, -⟩ | ⟨hc | hc, -⟩⟩, -⟩ := hinv.pay hp <;> exact .inr (.inl ⟨hp, _, hc⟩)

/-- A receiving core that keeps the host's bytes waits. -/
theorem State.Receiving.waits_of_cmd_eq (hs : s.Receiving) (h : coreStep s = .next t)
    (hcmd : s.host.cmd = t.host.cmd) : t = s ∧ s.Waits := by
  rcases hs.coreStep_cases h with ⟨he, hnone⟩ | ⟨v, htaken⟩
  · exact ⟨he, .inl ⟨hs, hnone⟩⟩
  · simp [hcmd] at htaken

/-- A responding core that keeps TXCNT and stays without a fault waits. -/
theorem waits_of_resp (hp : s.PHASE = .resp) (h : coreStep s = .next t) (hf : t.FAULT = none)
    (hcnt : s.TXCNT = t.TXCNT) : t = s ∧ s.Waits := by
  rcases respStep_cases ((coreStep_resp hp).symm.trans h) with
    ⟨ht, he⟩ | ⟨n, _, _, hn, -, -, -, rfl⟩ | rfl
  · exact ⟨he, .inr ⟨hp, ht⟩⟩
  · simp [hn] at hcnt
  · cases hf

/-- A core step that leaves all but the host's listed move as it is, is a wait. -/
theorem waits_of_coreStep (hinv : s.Inv) (hf : s.FAULT = none) (h : coreStep s = .next t)
    (hstill : s = popMove t) : t = s ∧ s.Waits := by
  have hcmd : s.host.cmd = t.host.cmd := by rw [hstill, popMove_host]
  have hcnt : s.TXCNT = t.TXCNT := by rw [hstill, popMove_TXCNT]
  have hfault : t.FAULT = none := by rw [← hf, hstill, popMove_FAULT]
  have hinternal (hp : s.PHASE.internal) : t = s ∧ s.Waits := by
    obtain ⟨t', ht', -, hstep⟩ := coreStep_internal hinv hp
    obtain rfl := Host.Outcome.next.inj (h.symm.trans ht')
    exact absurd hstill.symm (hstep.ne _)
  cases hp : s.PHASE with
  | idle => exact State.Receiving.waits_of_cmd_eq (.inl hp) h hcmd
  | pay => exact (hinv.receiving_pay hp).waits_of_cmd_eq h hcmd
  | drain => exact State.Receiving.waits_of_cmd_eq (.inr (.inr hp)) h hcmd
  | kxInit => exact hinternal (.inl hp)
  | kxMix => exact hinternal (.inr (.inl hp))
  | enRun => exact hinternal (.inr (.inr (.inl hp)))
  | deRun => exact hinternal (.inr (.inr (.inr hp)))
  | resp => exact waits_of_resp hp h hfault hcnt

theorem moves_eq_nil_of_still (hstill : s = popMove t) (hm : t.host.moves = s.host.moves) :
    s.host.moves = [] := by
  have htail : s.host.moves = t.host.moves.tail := by
    rw [hstill, popMove_host]
  rw [hm] at htail
  cases h : s.host.moves with
  | nil => rfl
  | cons m ms => simp [h] at htail

/-- A core whose host does no more waits in the stuck states and after a finished run (R210). -/
theorem waits_iff (hinv : s.Inv) (hq : s.Quiet) : s.Waits ↔ s.stuck ∨ s.finished := by
  have ⟨hf, hr, _, hm⟩ := hq
  have ho : hostOffers s = true := hq.hostOffers
  have ht : hostTakes s = s.host.takes := by rw [hostTakes, hm]
  constructor
  · rintro (⟨hs, hnone⟩ | ⟨hp, hnone⟩)
    · have hcmd : s.host.cmd = [] := hnone.resolve_left (by simp [ho])
      rcases hs with hp | ⟨hp, -⟩ | hp
      · by_cases hcnt : s.HDRCNT = 0
        · exact .inr ⟨hp, hcnt, hcmd, hf, hr⟩
        · exact .inl ⟨hf, hr, hm, .inr (.inl ⟨hp, hcnt, hcmd⟩)⟩
      · exact .inl ⟨hf, hr, hm, .inl ⟨.inl hp, hcmd⟩⟩
      · exact .inl ⟨hf, hr, hm, .inl ⟨.inr hp, hcmd⟩⟩
    · exact .inl ⟨hf, hr, hm, .inr (.inr ⟨hp, ht.symm.trans hnone⟩)⟩
  · rintro (⟨-, -, -, ⟨hp | hp, hcmd⟩ | ⟨hp, -, hcmd⟩ | ⟨hp, hnone⟩⟩ | ⟨hp, -, hcmd, -⟩)
    · exact .inl ⟨hinv.receiving_pay hp, .inr hcmd⟩
    · exact .inl ⟨.inr (.inr hp), .inr hcmd⟩
    · exact .inl ⟨.inl hp, .inr hcmd⟩
    · exact .inr ⟨hp, ht.trans hnone⟩
    · exact .inl ⟨.inl hp, .inr hcmd⟩

/-- Settles O44: neither a reset nor a core step that is no wait stands still, and a wait does when
the host has no listed move. -/
theorem standingStillIsStuckOrFinished : Obligations.StandingStillIsStuckOrFinished := by
  intro s hinv hf hr
  have hl := hinv.base.legal
  constructor
  · intro h
    obtain ⟨-, -, ⟨hillegal, -⟩ | ⟨-, ⟨hreset, hstill⟩ | ⟨-, u, hu, hstill⟩⟩⟩ := step_cases h
    · simp [hl] at hillegal
    · simp [moves_eq_nil_of_still hstill rfl] at hreset
    · obtain ⟨rfl, hwaits⟩ := waits_of_coreStep hinv hf hu hstill
      have hm := moves_eq_nil_of_still hstill rfl
      exact ((waits_iff hinv ⟨hf, hr, hl, hm⟩).1 hwaits).imp_right fun hfin => ⟨hfin, hm⟩
  · intro h
    have hm : s.host.moves = [] := h.elim (fun ⟨_, _, hm, _⟩ => hm) And.right
    have hq : s.Quiet := ⟨hf, hr, hl, hm⟩
    have hwaits := (waits_iff hinv hq).2 (h.imp_right And.left)
    exact hq.step_eq hwaits.coreStep_eq hm

end Sys2Proof.Machine
end

section
/-! PROOFS. The run of a frame of wrong length (R204, R230 to R232), and the agreement of the step
level with the command level (R200, R209). -/

namespace Sys2Proof.Machine

variable {s : State} {i : Instr} {P rest : List Byte} {n : Nat} {st : Byte}

/-! ### The length a command must have -/

/-- The valid length of a command: b bytes of key, or one block (R121, R151). -/
def validLength (cfg : Config) : Instr → Nat
  | .keyx _ => cfg.b
  | .enc _ | .dec _ => cfg.blockBytes

/-- The status code of a command of wrong length (R230, R231). -/
def lengthCode : Instr → Byte
  | .keyx _ => stInvalidKeyLength
  | .enc _ | .dec _ => stInvalidBlockLength

theorem lengthCode_eq (i : Instr) :
    lengthCode i = if i = .keyx i.len then 0x01#8 else 0x02#8 := by
  cases i with
  | keyx len => exact (if_pos rfl).symm
  | enc len | dec len => exact (if_neg (by simp)).symm

theorem ne_validLength {cfg : Config} (hkeyx : i = .keyx i.len → i.len ≠ cfg.b)
    (hblock : i ≠ .keyx i.len → i.len ≠ cfg.blockBytes) : i.len ≠ validLength cfg i := by
  cases i with
  | keyx len => exact hkeyx rfl
  | enc len | dec len => exact hblock (by simp)

/-- The header decode of a command of wrong length (R121, R151). -/
theorem exec_of_wrongLength (hp : s.PHASE = .idle) (hne : i.len ≠ validLength s.cfg i) :
    exec i s = .next (lengthError (lengthCode i) i.len { s with RXCNT := some 0 }) := by
  cases i with
  | keyx len => rw [exec_keyx, byPhase_idle hp]; exact keyxHeader_of_ne hne
  | enc len => rw [exec_blockHeader (.inl rfl) hp]; exact blockHeader_of_ne hne
  | dec len => rw [exec_blockHeader (.inr rfl) hp]; exact blockHeader_of_ne hne

/-! ### DRAIN -/

/-- s in DRAIN with the code st, n payload bytes discarded, and the bytes cmd still to be sent
(R204). -/
def State.drainAt (s : State) (st : Byte) (n : Nat) (cmd : List Byte) : State :=
  { s with PHASE := .drain, ST := some st, RXCNT := some n, host := { s.host with cmd := cmd } }

/-- A step in DRAIN discards a byte; the last one is answered (R204). -/
theorem step_drainAt {v : Byte} (hq : s.Quiet) (hc : currentInstr s = some i) :
    step (s.drainAt st n (v :: rest)) = .next
      (if n + 1 = i.len then respond st [] (s.drainAt st (n + 1) rest)
      else s.drainAt st (n + 1) rest) := by
  have hq' : (s.drainAt st n (v :: rest)).Quiet := hq
  obtain ⟨cw, hcw, hd⟩ := currentInstr_eq_some.1 hc
  have hbyte := drainByte_of_values (s := s.drainAt st n rest) v rfl hcw rfl
  rw [← len_of_decodeWord hd] at hbyte
  refine hq'.step_eq ?_ (by split <;> exact hq.moves)
  rw [coreStep_drain rfl, recvByte_offered hq'.hostOffers rfl]
  exact hbyte

/-- The rest P of a payload, its bytes discarded one a step, and the response. -/
theorem runs_drain (hq : s.Quiet) (hc : currentInstr s = some i) (hne : P ≠ [])
    (hlen : n + P.length = i.len) : Runs P.length (s.drainAt st n (P ++ rest))
      (respond st [] (s.drainAt st i.len rest)) := by
  induction P generalizing n with
  | nil => exact absurd rfl hne
  | cons v P ih =>
    rw [List.length_cons] at hlen
    have hstep := step_drainAt (st := st) (n := n) (v := v) (rest := P ++ rest) hq hc
    cases P with
    | nil =>
      have hlast : n + 1 = i.len := hlen
      rw [if_pos hlast, hlast] at hstep
      exact .single hstep
    | cons w P =>
      rw [List.length_cons] at hlen
      rw [if_neg (by omega)] at hstep
      exact .head hstep (ih (List.cons_ne_nil w P) (by rw [List.length_cons]; omega))

/-! ### A frame of wrong length -/

/-- s with the header of the command i taken, and the bytes cmd still to be sent (R202). -/
def State.headed (s : State) (i : Instr) (cmd : List Byte) : State :=
  s.headerAt ((encode i).map some) 0 cmd

/-- The header and the payload of a frame of wrong length, up to the response (R204). -/
theorem runs_wrongLength (hwf : i.wellFormed) (hlen : P.length = i.len)
    (hne : i.len ≠ validLength s.cfg i) (hb : s.boundary (encode i ++ P ++ rest)) :
    Runs (4 + i.len) s
      (respond (lengthCode i) [] ((s.headed i rest).drainAt (lengthCode i) i.len rest)) := by
  have hq := State.boundary.quiet hb
  have ⟨_, _, _, hp, _⟩ := hb
  rw [List.append_assoc] at hb
  have hexec := exec_of_wrongLength (s := s.headed i (P ++ rest)) hp hne
  rcases lengthError_cases (lengthCode i) i.len { s.headed i (P ++ rest) with RXCNT := some 0 } with
    ⟨hzero, e⟩ | ⟨hpos, e⟩ <;> rw [e] at hexec
  · obtain rfl : P = [] := List.length_eq_zero_iff.1 (hlen.trans hzero)
    rw [hzero]
    exact runs_header hwf hb hexec hq.moves
  · have hcommand : currentInstr (s.headed i rest) = some i := currentInstr_of_encode hwf rfl
    have hpayload : P ≠ [] := List.length_pos_iff.1 (by omega)
    have hdrain := runs_drain (s := s.headed i rest) (st := lengthCode i) (n := 0) (rest := rest) hq
      hcommand hpayload ((Nat.zero_add _).trans hlen)
    rw [hlen] at hdrain
    exact (runs_header hwf hb hexec hq.moves).trans hdrain

/-- A whole frame of wrong length: one error byte, and S and KEYED as they were (R209, R232). -/
theorem runs_wrongLengthFrame (hwf : i.wellFormed) (hlen : P.length = i.len)
    (hne : i.len ≠ validLength s.cfg i) (hb : s.boundary (encode i ++ P ++ rest)) :
    ∃ t, Runs (4 + i.len + 1) s t ∧ s.after t [lengthCode i] rest ∧ t.S = s.S ∧
      t.KEYED = s.KEYED := by
  have hframe := runs_wrongLength hwf hlen hne hb
  have hq := State.boundary.quiet hb
  obtain ⟨-, hf, hr, -, -, -, htakes, -⟩ := hb
  have hanswer := runs_respond (s := (s.headed i rest).drainAt (lengthCode i) i.len rest)
    (st := lengthCode i) (data := []) hq htakes
  exact ⟨_, hframe.trans hanswer, ⟨rfl, rfl, hf, hr, rfl, rfl, workingEmpty_respond ..⟩, rfl, rfl⟩

/-- Settles O56, by `runs_wrongLengthFrame`. -/
theorem wrongLengthFrameIsAnsweredAndDrained :
    Obligations.WrongLengthFrameIsAnsweredAndDrained := by
  intro s i P rest hwf hlen hkeyx hblock hb
  rw [← lengthCode_eq]
  exact runs_wrongLengthFrame hwf hlen (ne_validLength hkeyx hblock) hb

/-! ### The two levels -/

/-- The steps of the frame of i with payload P lead from the boundary s to what the command level
gives (R209): a boundary with its S, KEYED and response, or the fault in the fourth step. -/
def Agrees (s : State) (i : Instr) (P rest : List Byte) : CommandOutcome → Prop
  | .done S' KEYED' response => ∃ t,
      Runs (4 + i.len + internalSteps s.cfg i + response.length) s t ∧
      s.after t response rest ∧ t.S = S' ∧ t.KEYED = KEYED'
  | .fault r => r = .unkeyed ∧ ∃ t, Runs 4 s t ∧ t.FAULT = some r ∧
      t.host = { s.host with cmd := P ++ rest }
  | .refused _ => False

theorem execCommand_encodeWord {cfg : Config} {S : List (Option Word)} {keyed : Bool}
    (hwf : i.wellFormed) :
    execCommand cfg S keyed (encodeWord i) P = commandOf cfg S keyed i P := by
  rw [execCommand, decodeWord_encodeWord hwf]

/-- A frame of wrong length: no internal step, and the error byte. -/
theorem agrees_of_wrongLength (hwf : i.wellFormed) (hlen : P.length = i.len)
    (hne : i.len ≠ validLength s.cfg i) (hb : s.boundary (encode i ++ P ++ rest)) :
    Agrees s i P rest (commandOf s.cfg s.S s.KEYED i P) := by
  have hcommand : commandOf s.cfg s.S s.KEYED i P = .done s.S s.KEYED [lengthCode i] := by
    cases i <;> exact if_pos hne
  have hsteps : internalSteps s.cfg i = 0 := by
    cases i <;> exact if_neg hne
  rw [hcommand, Agrees, hsteps]
  exact runs_wrongLengthFrame hwf hlen hne hb

/-- A KEYX of b bytes (R120). -/
theorem agrees_keyx (hlen : P.length = s.cfg.b)
    (hb : s.boundary (encode (.keyx s.cfg.b) ++ P ++ rest)) :
    Agrees s (.keyx s.cfg.b) P rest (commandOf s.cfg s.S s.KEYED (.keyx s.cfg.b) P) := by
  obtain ⟨t, hrun, hafter, hkeyed, hS⟩ := keyxFrameExpandsTheKey s P rest hlen hb
  have hcommand : commandOf s.cfg s.S s.KEYED (.keyx s.cfg.b) P = .done t.S true [stOK] := by
    simp [commandOf, commandKeyx, hS]
  have hsteps : internalSteps s.cfg (.keyx s.cfg.b) = s.cfg.t - 1 + s.cfg.nMix := if_pos rfl
  rw [hcommand, Agrees, hsteps, ← Nat.add_assoc]
  exact ⟨t, hrun, hafter, rfl, hkeyed⟩

theorem encrypt_length {cfg : Config} {S : List (Option Word)} {C : List Byte}
    (h : encrypt cfg S P = some C) : C.length = cfg.blockBytes := by
  obtain ⟨_, ab, -, -, rfl⟩ := encrypt_eq_some.1 h
  exact wordsToBlock_length ..

theorem decrypt_length {cfg : Config} {S : List (Option Word)} {C : List Byte}
    (h : decrypt cfg S P = some C) : C.length = cfg.blockBytes := by
  obtain ⟨_, ab, -, -, rfl⟩ := decrypt_eq_some.1 h
  exact wordsToBlock_length ..

section
variable {mk : Nat → Instr} {entered : State → Word × Word → Option State}
  {cipher : Config → List (Option Word) → List Byte → Option (List Byte)}

/-- The header of a block command on an unkeyed core: F_UNKEYED in the fourth step, with no payload
byte taken (R152). -/
theorem BlockCommand.runs_unkeyed (hcmd : BlockCommand mk entered cipher)
    (hunkeyed : s.KEYED = false) (hb : s.boundary (encode (mk s.cfg.blockBytes) ++ rest)) :
    Runs 4 s { s.headed (mk s.cfg.blockBytes) rest with
      RXCNT := some 0, FAULT := some .unkeyed } := by
  have hq := State.boundary.quiet hb
  have ⟨_, _, _, hp, _⟩ := hb
  have hheader := blockHeader_of_eq (s.headed (mk s.cfg.blockBytes) rest)
  rw [if_pos (by exact hunkeyed)] at hheader
  refine Machine.runs_header (hcmd.wellFormed hq.legal) hb ?_ hq.moves
  rw [hcmd.exec, byPhase_idle (by exact hp)]
  exact hheader

/-- A block command with one block of payload: keyed it gives the cipher's block, and unkeyed it
faults (R150, R152, R156). -/
theorem BlockCommand.agrees (hcmd : BlockCommand mk entered cipher)
    (hsteps : internalSteps s.cfg (mk s.cfg.blockBytes) = s.cfg.r)
    (hlength : ∀ {C}, cipher s.cfg s.S P = some C → C.length = s.cfg.blockBytes)
    (hlen : P.length = s.cfg.blockBytes)
    (hb : s.boundary (encode (mk s.cfg.blockBytes) ++ P ++ rest)) :
    Agrees s (mk s.cfg.blockBytes) P rest
      (commandBlock (cipher s.cfg) s.cfg s.S s.KEYED s.cfg.blockBytes P) := by
  cases hkeyed : s.KEYED with
  | false =>
    have hcommand : commandBlock (cipher s.cfg) s.cfg s.S false s.cfg.blockBytes P =
        .fault .unkeyed := by
      simp [commandBlock]
    rw [List.append_assoc] at hb
    rw [hcommand]
    exact ⟨rfl, _, hcmd.runs_unkeyed hkeyed hb, rfl, rfl⟩
  | true =>
    obtain ⟨t, block, hrun, hcipher, hafter, hS, hkeyed'⟩ := hcmd.runs_frame hlen hkeyed hb
    have hcommand : commandBlock (cipher s.cfg) s.cfg s.S true s.cfg.blockBytes P =
        .done s.S true (stOK :: block) := by
      simp [commandBlock, hcipher]
    rw [hcommand, Agrees, hcmd.len, hsteps, List.length_cons, hlength hcipher,
      Nat.add_comm s.cfg.blockBytes 1]
    exact ⟨t, hrun, hafter, hS, hkeyed'⟩

end

/-- Every well-formed frame, by its length and its command. -/
theorem agrees_commandOf (hwf : i.wellFormed) (hlen : P.length = i.len)
    (hb : s.boundary (encode i ++ P ++ rest)) :
    Agrees s i P rest (commandOf s.cfg s.S s.KEYED i P) := by
  by_cases hvalid : i.len = validLength s.cfg i
  · cases i with
    | keyx len =>
      obtain rfl : len = s.cfg.b := hvalid
      exact agrees_keyx hlen hb
    | enc len =>
      obtain rfl : len = s.cfg.blockBytes := hvalid
      exact blockCommand_enc.agrees (if_pos rfl) encrypt_length hlen hb
    | dec len =>
      obtain rfl : len = s.cfg.blockBytes := hvalid
      exact blockCommand_dec.agrees (if_pos rfl) decrypt_length hlen hb
  · exact agrees_of_wrongLength hwf hlen hvalid hb

/-- Settles O57: the statement is `Agrees` of the command level's outcome. -/
theorem stepLevelAgreesWithCommandLevel : Obligations.StepLevelAgreesWithCommandLevel := by
  intro s i P rest hwf hlen hb
  have hagrees := agrees_commandOf hwf hlen hb
  rw [← execCommand_encodeWord hwf] at hagrees
  exact hagrees

end Sys2Proof.Machine
end

section
/-! PROOFS. The reset event (R260, R261): the step that takes it, the registers it leaves, and the
state invariant of the reset state. -/

namespace Sys2Proof.Machine

variable {s : State} {ms : List HostMove}

/-- An unmarked core of a legal configuration takes the host's reset, in any phase, and the move is
used up: with `step_of_running`, the two steps such a core can make. -/
theorem step_of_reset (hf : s.FAULT = none) (hr : s.REFUSED = none) (hl : s.cfg.legal = true)
    (hm : s.host.moves = .reset :: ms) : step s = .next (popMove (resetEvent s)) := by
  simp [step, tick, hf, hr, hl, hm]

/-- Settles O12: the step is `resetEvent`, which writes each field out, and the host keeps the moves
after the reset. -/
theorem resetEventSetsEveryRegister : Obligations.ResetEventSetsEveryRegister := by
  intro s ms hf hr hl hm
  obtain rfl : s.host.moves.tail = ms := by rw [hm, List.tail_cons]
  exact step_of_reset hf hr hl hm

/-- Settles O51, by `inv_resetFor`. -/
theorem resetMeetsTheInvariant : Obligations.ResetMeetsTheInvariant :=
  fun _ hlegal => inv_resetFor hlegal

end Sys2Proof.Machine
end
